-- ==== Sys2Proof/Config.lean ====
section
/-! DEFINITION. What the JK-612 fixes: its counts, limits and times, each with the rule that states it, and the open
values: the order in which EDITION_QUERY lists the entries (R144 "in no fixed order"), the level of the flap-settled
input when a sequence finds it (R89), and the tolerance bytes of an empty set's reply (R110, section 10.8). -/

namespace Sys2Proof.Config

/-- Part code (R193). -/
abbrev partCode : Nat := 0x0612
/-- Revision (R193). -/
abbrev revision : Nat := 1

/-- Most print records in the queue (R3). -/
abbrev queueRoom : Nat := 8
/-- Most parcels in a channel's queue (R35). -/
abbrev parcelRoom : Nat := 24
/-- Most entries of the cartridge memory table (R32). -/
abbrev memoryRoom : Nat := 32
/-- Most station entries (R74). -/
abbrev stationRoom : Nat := 16
/-- Most edition entries (R128). -/
abbrev editionRoom : Nat := 64
/-- Most ids in the closed-id list (R141). -/
abbrev closedRoom : Nat := 1024
/-- Most records in the cost log (R158). -/
abbrev logRoom : Nat := 128
/-- Most frames in the send list (R183). -/
abbrev sendRoom : Nat := 32
/-- Most taken frames in the receive list (R181). -/
abbrev receiveRoom : Nat := 4

/-- Sub-tank capacity, nL (R34). -/
abbrev tankCapacity : Nat := 40000000
/-- Dead volume, nL (R34). -/
abbrev deadVolume : Nat := 1000000
/-- Usable supply below which a channel is LOW, nL (R45). -/
abbrev lowSupply : Nat := 25000000
/-- Refill trigger, nL (R36). -/
abbrev refillTrigger : Nat := 36000000
/-- Print floor, nL (R36). -/
abbrev printFloor : Nat := 12000000
/-- Most a refill takes, nL (R37). -/
abbrev refillUnit : Nat := 2000000
/-- Volume of one flow pulse, nL (R38). -/
abbrev pulseVolume : Nat := 50
/-- Units of 1/4096 cpL in one nanolitre (R55). -/
abbrev unitsPerNl : Nat := 409600000
/-- The head temperature that stands for "invalid" (R50). -/
abbrev invalidTemperature : Int := 0x7FFF

/-- Head line to cutter line, dmm (R68). -/
abbrev cutterOffset : Nat := 1800
/-- Head line to spectro line, dmm (R68). -/
abbrev spectroOffset : Nat := 950
/-- Roll-end sensor to head line, dmm (R68). -/
abbrev endSensorOffset : Nat := 300
/-- Unallotted roll below which the roll is low, dmm (R86). -/
abbrev lowRoll : Nat := 20000

/-- Tag transfer timeout, ms (R28). -/
abbrev tagTimeout : Nat := 200
/-- Gap timeout inside a frame, ms (R179). -/
abbrev gapTimeout : Nat := 50
/-- Flap settle limit, ms (R91). -/
abbrev settleLimit : Nat := 2000
/-- Blade limit, ms (R92). -/
abbrev bladeLimit : Nat := 5000
/-- Calibration timeout, ms (R114). -/
abbrev calibrationTimeout : Nat := 6000
/-- Scan timeout, ms (R118). -/
abbrev scanTimeout : Nat := 8000
/-- Calibration retry timer, ms (R114). -/
abbrev retryTime : Nat := 60000
/-- Flush wait, ms (R21). -/
abbrev flushWait : Nat := 10000
/-- Silence timeout, ms (R172). -/
abbrev silenceTime : Nat := 30000
/-- Day timer, ms (R195: 86,400 s). -/
abbrev dayTime : Nat := 86400000
/-- Longest swath gap that leaves a PASS as it is, ms (R123). -/
abbrev longGap : Nat := 120000
/-- Scan count above which calibration is stale (R113). -/
abbrev staleCount : Nat := 150

/-- The largest value a 64-bit sum records (R140, R152, R153). -/
abbrev max64 : Nat := 2 ^ 64 - 1
/-- The size of the 32-bit counters (R3, R32, R156). -/
abbrev size32 : Nat := 2 ^ 32

/-- OPEN VALUE (log entry 14): EDITION_QUERY lists the entries "in no fixed order" (R144). An entry's place is
decided by a rank that nothing constrains. -/
opaque editionRank : Nat → Nat

/-- OPEN VALUE (log entry 33): whether the flap has left its rest by the n-th reading of the flap-settled input (R89,
R91). No command of the table is the fall of that input, so each level found is free. -/
opaque flapLeftRest : Nat → Bool

/-- OPEN VALUE (log entry 39): what the reply of REFERENCE_QUERY holds in the tolerance bytes of an empty set, which
has no tolerances (R106, R110, section 10.8). -/
opaque emptyTolerances : Nat × Nat

end Sys2Proof.Config
end

