-- ==== Sys2Proof/Word.lean ====
section
/-! DEFINITION. The byte, the unit of every link frame (R178). -/

namespace Sys2Proof

/-- One byte of a link frame (R178, section 10.8). -/
abbrev Byte := BitVec 8

end Sys2Proof
end

