-- ==== Sys2Proof/Syntax.lean ====
section
/-! DEFINITION. The commands of the JK-612: `Instr`, one constructor per row of spec/opcode_table.json, with the
fields of the message, or the line levels of the event, that each row stands for; and the messages the part sends on
the engine and spectro links. Field values are kept as the frames carry them (numbers), so that a value outside its
range reaches the rule that refuses it (R182). -/

namespace Sys2Proof

set_option Elab.async false

/-- An ink channel, 0..11. -/
abbrev Chan := Fin 12

/-- The three UART links (R178). -/
inductive Link where
  | control | engine | spectro
  deriving DecidableEq, Repr

/-- A frame as a receiver takes it: kind, tag and body (R178, R179). -/
structure Frame where
  kind : Byte
  tag : Byte
  body : List Byte
  deriving DecidableEq, Repr

/-- The access levels, in rising order (R187). -/
inductive AccessLevel where
  | operator | studio | service
  deriving DecidableEq, Repr

/-- The print description of PRINT_SUBMIT (R5; 66 bytes, section 10.8). -/
structure PrintDescription where
  jobTag : Nat
  /-- 0 EDITION, 1 ARTIST_PROOF, 2 PROOF; any other value is refused RANGE (R5). -/
  kindCode : Nat
  editionId : Option Nat
  refSet : Option Nat
  mediaType : Nat
  imageWidth : Nat
  spanLength : Nat
  estimates : Vector Nat 12
  hold : Bool
  deriving DecidableEq, Repr

/-- The drop counts of one channel in a swath report (R54). -/
structure DropCounts where
  small : Nat
  medium : Nat
  large : Nat
  deriving DecidableEq, Repr

/-- A swath report (R54; 113 bytes, section 10.8). -/
structure SwathReport where
  handle : Nat
  sequence : Nat
  /-- Head temperature in tenths, signed; 7FFFh is "invalid" (R50). -/
  temperature : Int
  drops : Vector DropCounts 12
  deriving DecidableEq, Repr

/-- What a good tag read gives (R27, R30). -/
structure TagData where
  serial : Nat
  colour : Nat
  lot : Nat
  fill : Nat
  remaining : Nat
  /-- OPENED when true, FRESH when false. -/
  opened : Bool
  openedDay : Nat
  deriving DecidableEq, Repr

/-- One patch of a reference set (R106). -/
structure Patch where
  targetL : Int
  targetA : Int
  targetB : Int
  critical : Bool
  deriving DecidableEq, Repr

/-- One reading of the spectro head (R111). -/
structure Reading where
  valL : Int
  valA : Int
  valB : Int
  deriving DecidableEq, Repr

/-- The levels of the part's sensor and driver inputs, as they stand when power is applied. -/
structure SensorLevels where
  /-- cartridge-present, slot 0..11 -/
  cartridge : Vector Bool 12
  rollPresent : Bool
  /-- the roll-end sensor shows media -/
  rollEndMedia : Bool
  /-- the home input: the blade is at rest (R89) -/
  bladeHome : Bool
  /-- the flap-settled input (R89) -/
  flapSettled : Bool
  deriving DecidableEq, Repr

/-- The refusal reasons on the engine link (R164), in the order of their codes. -/
inductive EngineRefusal where
  | state | handle | stopped | busy | malformed | unknownKind
  deriving DecidableEq, Repr

/-- The why field of NOTHING (R164, R166), in the order of its codes. -/
inductive Why where
  | noPrint | halt | roll | transport | positioning
  deriving DecidableEq, Repr

/-- The frames the part sends to the engine, each with its tag (R164). -/
inductive EngineFrame where
  | printGo (tag handle imageWidth spanLength mediaType : Nat)
  | nothing (tag : Nat) (why : Why)
  | feedDone (tag distance : Nat) (clipped : Bool)
  | taken (tag : Nat)
  | printStop (handle : Nat)
  | refused (tag : Nat) (reason : EngineRefusal)
  deriving DecidableEq, Repr

/-- The commands the part sends to the spectro head, each with its tag (R111). -/
inductive SpectroCommand where
  | calibrate (tag : Nat)
  | scan (tag handle patchCount : Nat)
  deriving DecidableEq, Repr

/-- The commands: one constructor per row of spec/opcode_table.json. A request of the control link and a frame of the
engine or spectro link carries its frame's tag first. -/
inductive Instr where
  | powerOn (levels : SensorLevels)
  | access (tag level password : Nat)
  | passwordSet (tag level password : Nat)
  | ident (tag : Nat) (clear : Bool)
  | date (tag day : Nat)
  | setInkMargin (tag : Nat) (value : BitVec 32)
  | setUncheckedPolicy (tag : Nat) (value : BitVec 32)
  | setNoticeMask (tag : Nat) (value : BitVec 32)
  | setLamp (tag : Nat) (value : BitVec 32)
  | setHaltRouting (tag : Nat) (value : BitVec 32)
  | setAttnRouting (tag : Nat) (value : BitVec 32)
  | settingsQuery (tag : Nat)
  | reset (tag : Nat)
  | factoryRestore (tag : Nat)
  | clearFaultChannel (tag channel : Nat)
  | clearFaultTransport (tag : Nat)
  | clearFaultVerdictLatch (tag : Nat)
  | printSubmit (tag : Nat) (description : PrintDescription)
  | printRelease (tag handle : Nat)
  | printCancel (tag handle : Nat)
  | printQuery (tag : Nat) (handle : Option Nat)
  | channelColour (tag channel code : Nat)
  | inkQuery (tag : Nat) (channel : Option Nat)
  | trimSet (tag channel trim : Nat)
  | dropRowSet (tag row small medium large : Nat)
  | manualModeSet (tag mode row : Nat)
  | meterQuery (tag : Nat) (channel : Option Nat)
  | rollLoad (tag mediaType width length serial : Nat)
  | rollConfirm (tag : Nat)
  | move (tag distance : Nat)
  | rollQuery (tag : Nat)
  | cutAt (tag position chute : Nat)
  | cutNow (tag chute : Nat)
  | cutQuery (tag : Nat)
  | referenceLoad (tag index count : Nat) (patches : List Patch) (warn fail : Nat)
  | referenceSeal (tag index : Nat)
  | referenceQuery (tag index : Nat)
  | calibrate (tag : Nat)
  | colourQuery (tag : Nat)
  | editionOpen (tag id : Nat) (title : List Byte) (limit apLimit refSet mediaType : Nat)
  | editionHold (tag id : Nat)
  | editionResume (tag id : Nat)
  | editionClose (tag id : Nat)
  | editionArchive (tag id : Nat)
  | editionQuery (tag : Nat) (id : Option Nat)
  | closedQuery (tag start : Nat)
  | tariffSet (tag lot price : Nat)
  | mediaSet (tag mediaType : Nat) (name : List Byte) (price : Nat) (adjustment : Int)
  | costRead (tag : Nat)
  | costDrop (tag sequence : Nat)
  | priceQueryTariff (tag : Nat)
  | priceQueryMedia (tag : Nat)
  | priceQueryLog (tag : Nat)
  | engineQuery (tag : Nat)
  | unknownKind (tag kind : Nat)
  | frameCheckFault (link : Link)
  | frameLengthFault (link : Link)
  | gapTimeout (link : Link)
  | overrun (frame : Frame)
  | sendListDrain (sent : Nat)
  | engineReady (tag : Nat)
  | swath (tag : Nat) (report : SwathReport)
  | feedAsk (tag handle distance : Nat)
  | printDone (tag handle : Nat)
  | printFail (tag handle cause : Nat)
  | engineUnknownKind (tag kind : Nat)
  | silenceTimeout
  | calibrated (tag : Nat)
  | calibrationFault (tag cause : Nat)
  | calibrationTimeout
  | calibrationRetryExpiry
  | readings (tag : Nat) (list : List Reading)
  | scanFault (tag cause : Nat)
  | scanTimeout
  | spectroFrameIgnored (frame : Frame)
  | flushWaitExpiry
  | cartridgeInserted (slot : Chan)
  | cartridgeRemoved (slot : Chan)
  | tagReadDone (result : Option TagData)
  | tagWriteDone (ok : Bool)
  | tagTransferTimeout
  | flowPulse (channel : Chan)
  | refillTimeout (channel : Chan)
  | drySense (channel : Chan)
  | driverArrival
  | movementTimeout
  | driverFault
  | rollPresentChange (level : Bool)
  | rollEnd
  | flapSettled
  | settleLimitExpiry
  | bladeHome
  | bladeLimitExpiry
  | blinkPeriod
  | dayTimerExpiry
  | rollEndSensorShowsMedia
  | linkByteReceived (link : Link) (byte : Byte)
  | bladeLeavesRest
  deriving DecidableEq, Repr

end Sys2Proof
end

