-- ==== Sys2Proof/Machine/State.lean ====
section
/-! DEFINITION. The state of the JK-612: one record per block of the manual, plain data throughout, the queue of the
commands that wait, and the state right after reset (R203, steps 1 and 2, on a part as delivered; log entry 1). -/

namespace Sys2Proof.Machine

set_option Elab.async false

open Sys2Proof

/-- A value for each of the twelve ink channels. -/
abbrev PerChan (α : Type) := Vector α 12

/-! ## Print records and the print queue (chapter 1) -/

/-- A print's kind (R1). -/
inductive PrintKind where
  | edition | artistProof | proof
  deriving DecidableEq, Repr

/-- A print's state (R2). -/
inductive PrintState where
  | waiting | ready | active | travel | scan | separate
  deriving DecidableEq, Repr

/-- The reasons of the held-for list (R6). -/
inductive HeldReason where
  | heldFlag | rollUnverified | media | edition | ink (channel : Chan) | costSpace
  deriving DecidableEq, Repr

/-- A print's verdict (R123). -/
inductive Verdict where
  | pass | warn | fail | unchecked
  deriving DecidableEq, Repr

/-- A print's outcome (R1, R125). -/
inductive PrintOutcome where
  | accepted | rejected | spoiled
  deriving DecidableEq, Repr

/-- A print's stretch of roll, from its start to its end, in dmm (R12). -/
structure Span where
  start : Nat
  stop : Nat
  deriving DecidableEq, Repr

/-- What the Cost Unit takes at a committed start (R151). -/
structure MediaSnapshot where
  mediaType : Nat
  width : Nat
  spanLength : Nat
  price : Nat
  deriving DecidableEq, Repr

/-- The print record (R1), with its media snapshot (R151) and its tail-out mark (R84). -/
structure PrintRecord where
  handle : Nat
  jobTag : Nat
  kind : PrintKind
  editionId : Option Nat
  refSet : Option Nat
  mediaType : Nat
  imageWidth : Nat
  spanLength : Nat
  estimates : PerChan Nat
  held : Bool
  state : PrintState
  heldFor : List HeldReason
  reservation : PerChan Nat
  span : Option Span
  snapshot : Option MediaSnapshot
  consumed : PerChan Nat
  numerators : PerChan Nat
  overdraw : Bool
  swathCount : Nat
  lastSwath : Option Nat
  largestGap : Nat
  verdict : Option Verdict
  largestDE : Option Nat
  outcome : Option PrintOutcome
  number : Option Nat
  awaitingTailOut : Bool
  deriving DecidableEq, Repr

/-- The Print Queue Manager's state (R3, R4, R21). -/
structure PrintQueue where
  /-- the records in submission order -/
  prints : List PrintRecord
  /-- the handles of the READY prints, oldest first -/
  readyOrder : List Nat
  /-- the submission counter, modulo 2^32 -/
  submissions : Nat
  lastHandle : Nat
  /-- when the flush wait expires, while it runs -/
  flushDeadline : Option Nat
  flushDue : Bool
  deriving DecidableEq, Repr

/-! ## Ink supply (chapter 2) -/

/-- Why a slot is REFUSED (R27). -/
inductive RefuseReason where
  | colour | expired | tag
  deriving DecidableEq, Repr

/-- The state of a cartridge slot (R27). -/
inductive SlotState where
  | empty | reading | refused (reason : RefuseReason) | usable | spent
  deriving DecidableEq, Repr

/-- The cartridge fields of a slot record (R27). -/
structure Cartridge where
  serial : Nat
  colour : Nat
  lot : Nat
  fill : Nat
  remaining : Nat
  opened : Bool
  openedDay : Nat
  deriving DecidableEq, Repr

/-- One parcel of a sub-tank (R35). -/
structure Parcel where
  volume : Nat
  price : Nat
  lot : Nat
  serial : Nat
  deriving DecidableEq, Repr

/-- The refill state of a channel (R36). -/
inductive RefillState where
  | idle | waiting | pumping | suspended | fault
  deriving DecidableEq, Repr

/-- What a refill keeps while it is PUMPING, SUSPENDED or FAULT (R37, R38, R40, R42). -/
structure RefillJob where
  target : Nat
  /-- the volume taken so far -/
  taken : Nat
  price : Nat
  lot : Nat
  serial : Nat
  /-- flow pulses since the pump last started -/
  pulses : Nat
  /-- the refill's own parcel is still in the queue, as its last parcel (R43) -/
  parcelIn : Bool
  /-- when the refill timeout expires, while it runs -/
  deadline : Option Nat
  deriving DecidableEq, Repr

/-- A channel's ink indication (R45). -/
inductive Indication where
  | normal | low | out
  deriving DecidableEq, Repr

/-- The channel record (R25). -/
structure Channel where
  colourCode : Nat
  slot : SlotState
  cartridge : Option Cartridge
  level : Nat
  parcels : List Parcel
  /-- last removed price -/
  lastPrice : Nat
  refill : RefillState
  job : Option RefillJob
  indication : Indication
  installed : Bool
  /-- the pump's run line (R37, R38) -/
  pumpRun : Bool
  deriving DecidableEq, Repr

/-- A queued tag transfer (R28): a read, the marking write (R31) or a write of the remaining volume (R38, R41). -/
inductive TagTransfer where
  | read (slot : Chan)
  | mark (slot : Chan) (day : Nat)
  | volume (slot : Chan) (remaining : Nat)
  deriving DecidableEq, Repr

/-- An entry of the cartridge memory table (R32). -/
structure MemoryEntry where
  serial : Nat
  remaining : Nat
  stamp : Nat
  deriving DecidableEq, Repr

/-- The Ink Supply Controller's state. -/
structure InkSupply where
  channels : PerChan Channel
  /-- the tag bus queue; its front is the transfer under way (R28) -/
  tagQueue : List TagTransfer
  /-- when the transfer under way fails -/
  tagDeadline : Option Nat
  memory : List MemoryEntry
  /-- the seen counter, modulo 2^32 -/
  seen : Nat
  deriving DecidableEq, Repr

/-! ## Ink meter (chapter 3) -/

/-- One row of the drop-volume table, cpL (R49). -/
structure DropRow where
  small : Nat
  medium : Nat
  large : Nat
  deriving DecidableEq, Repr

/-- The Ink Meter's state (R49 to R56). -/
structure InkMeter where
  dropTable : Vector DropRow 24
  trims : PerChan Nat
  manualOn : Bool
  manualRow : Fin 24
  residues : PerChan Nat
  lastRow : Option (Fin 24)
  lastSequence : Option Nat
  deriving DecidableEq, Repr

/-! ## Media transport (chapter 4) -/

/-- The roll state (R69). -/
inductive RollState where
  | none | verified | unverified | ended
  deriving DecidableEq, Repr

/-- The other parts of the roll record (R67); all zero, and reported as absent, while the roll is NONE. -/
structure RollGeometry where
  mediaType : Nat
  width : Nat
  serial : Nat
  tail : Nat
  head : Nat
  alloc : Nat
  lastCut : Nat
  deriving DecidableEq, Repr

/-- ARMED or SENT: the roll-low flag (R86) and the early-full flag (R162). -/
inductive ArmFlag where
  | armed | sent
  deriving DecidableEq, Repr

/-- The kinds of station entry (R74). -/
inductive StationKind where
  | scan | cutLead | cutTrail | cutServer
  deriving DecidableEq, Repr

/-- BASKET or WASTE (R89). -/
inductive Chute where
  | basket | waste
  deriving DecidableEq, Repr

/-- A station entry (R74). -/
structure Station where
  kind : StationKind
  position : Nat
  trigger : Nat
  handle : Option Nat
  chute : Option Chute
  deriving DecidableEq, Repr

/-- The transport states (R77). -/
inductive TransportState where
  | idle | heldByEngine | moving | stoppedAtStation | faulted
  deriving DecidableEq, Repr

/-- Whose feed is in progress (R77). -/
inductive FeedOwner where
  | engine | positioning | flush | move
  deriving DecidableEq, Repr

/-- A feed in progress: its owner, its target, H at its start, and whether its owner's rule has told it to end
(R78). -/
structure Feed where
  owner : FeedOwner
  target : Nat
  start : Nat
  ending : Bool
  deriving DecidableEq, Repr

/-- A movement under way (R78): where it began and ends, the driver's target line; when it began; when its timeout
expires. -/
structure Movement where
  start : Nat
  target : Nat
  began : Nat
  deadline : Nat
  deriving DecidableEq, Repr

/-- Who holds the transport (R77). -/
inductive Hold where
  | none | engine (handle : Nat) | positioning (handle : Nat)
  deriving DecidableEq, Repr

/-- The transport's fault causes (R82). -/
inductive FaultCause where
  | timeout | driver | cut
  deriving DecidableEq, Repr

/-- The Media Transport Controller's state. -/
structure MediaTransport where
  rollState : RollState
  roll : RollGeometry
  lowFlag : ArmFlag
  /-- the station list, in list order -/
  stations : List Station
  state : TransportState
  feed : Option Feed
  movement : Option Movement
  hold : Hold
  cause : Option FaultCause
  deriving DecidableEq, Repr

/-! ## Cutter (chapter 5) -/

/-- The cutter states (R89). -/
inductive CutterState where
  | idle | settingChute | cutting | faulted
  deriving DecidableEq, Repr

/-- The stages at which a cut can fail (R96). -/
inductive CutStage where
  | home | flap | blade
  deriving DecidableEq, Repr

/-- CUT_FAULT with its stage and its entry (R89). -/
structure CutLatch where
  stage : CutStage
  entry : Station
  deriving DecidableEq, Repr

/-- The Cutter Controller's state (R89), its two limits (R91, R92), the fire line and whether the blade has left rest
since the firing. `flapReads` is the model's own: it counts how often the flap-settled input has been read or has
asserted, and numbers the free value of its level (log entry 33). -/
structure Cutter where
  state : CutterState
  current : Option Station
  chute : Option Chute
  flap : Chute
  latch : Option CutLatch
  settleDeadline : Option Nat
  bladeDeadline : Option Nat
  fire : Bool
  leftRest : Bool
  flapReads : Nat
  deriving DecidableEq, Repr

/-! ## Colour check (chapter 6) -/

/-- A reference set's protection mode (R106). -/
inductive RefMode where
  | opened | fixed | sealed
  deriving DecidableEq, Repr

/-- A reference set (R106). -/
structure RefSet where
  patches : List Patch
  warn : Nat
  fail : Nat
  mode : RefMode
  deriving DecidableEq, Repr

/-- The copy a scan takes when it begins (R117). -/
structure ScanJob where
  handle : Nat
  refSet : Nat
  patches : List Patch
  warn : Nat
  fail : Nat
  adjustment : Int
  deriving DecidableEq, Repr

/-- The conversation with the spectro head and the command in flight (R112): when it was sent, when it times out; a
calibration is requested or automatic (R114, R115); a scan records whether calibration was stale at its send and
whether the RESET request has made it one to discard (R118, R119). -/
inductive Spectro where
  | idle
  | calibrating (tag began deadline : Nat) (requested : Bool)
  | scanning (tag began deadline : Nat) (stale : Bool) (job : ScanJob) (discarded : Bool)
  deriving DecidableEq, Repr

/-- How a scan ended (R127). -/
inductive ScanEnd where
  | completed | length | fault (code : Nat) | timeout | discarded
  deriving DecidableEq, Repr

/-- One reading of the last scan record (R127): its squared difference and tolerance marks when it is valid. -/
structure JudgedReading where
  reading : Reading
  valid : Bool
  squared : Option Nat
  overWarn : Bool
  overFail : Bool
  deriving DecidableEq, Repr

/-- The last scan record (R127), with the count of invalid readings of a completed scan (R120). A verdict on an empty
set writes it with no tag and no readings. -/
structure LastScan where
  handle : Nat
  refSet : Nat
  tag : Option Nat
  stale : Option Bool
  warnEff : Option Nat
  failEff : Option Nat
  outcome : Option ScanEnd
  readings : List JudgedReading
  invalid : Nat
  verdict : Option Verdict
  deriving DecidableEq, Repr

/-- The Colour Check Unit's state. -/
structure ColourUnit where
  sets : Vector RefSet 32
  calValid : Bool
  scanCount : Nat
  spectro : Spectro
  lastTag : Nat
  pending : Option ScanJob
  retryDeadline : Option Nat
  lastScan : Option LastScan
  /-- the commands sent to the head since power-on, oldest first (the model's own record, log entry 7) -/
  sent : List SpectroCommand
  deriving DecidableEq, Repr

/-! ## Editions (chapter 7) -/

/-- An edition's state (R128). -/
inductive EditionState where
  | opened | hold | complete | closed
  deriving DecidableEq, Repr

/-- Why an edition is in HOLD (R128). -/
inductive HoldCause where
  | request | warnRun | failRun
  deriving DecidableEq, Repr

/-- An edition entry (R128). -/
structure Edition where
  id : Nat
  title : List Byte
  limit : Nat
  apLimit : Nat
  refSet : Nat
  mediaType : Nat
  state : EditionState
  accepted : Nat
  apAccepted : Nat
  rejected : Nat
  spoiled : Nat
  inFlight : Nat
  apInFlight : Nat
  warnRun : Nat
  failRun : Nat
  holdCause : Option HoldCause
  acceptedCost : Nat
  wasteCost : Nat
  openedDay : Nat
  closedDay : Option Nat
  deriving DecidableEq, Repr

/-- The Edition Registry's state (R128, R141). -/
structure Registry where
  table : List Edition
  closedIds : List Nat
  deriving DecidableEq, Repr

/-! ## Costing (chapter 8) -/

/-- A media table entry (R149). -/
structure MediaEntry where
  name : List Byte
  price : Nat
  adjustment : Int
  deriving DecidableEq, Repr

/-- A cost record (R154) with its flags (R155). -/
structure CostRecord where
  sequence : Nat
  handle : Nat
  jobTag : Nat
  kind : PrintKind
  editionId : Option Nat
  outcome : PrintOutcome
  number : Option Nat
  verdict : Option Verdict
  largestDE : Option Nat
  mediaType : Nat
  width : Nat
  spanLength : Nat
  consumed : PerChan Nat
  inkCosts : PerChan Nat
  mediaCost : Nat
  total : Nat
  /-- whole seconds -/
  largestGap : Nat
  overdraw : Bool
  estimated : Bool
  cutNone : Bool
  deriving DecidableEq, Repr

/-- The Cost Unit's state (R147, R149, R156, R158, R162). -/
structure CostUnit where
  tariff : Vector Nat 32
  media : Vector MediaEntry 16
  log : List CostRecord
  sequence : Nat
  earlyFull : ArmFlag
  deriving DecidableEq, Repr

/-! ## The engine link (chapter 9) -/

/-- The engine states (R165). -/
inductive EngineState where
  | idle | asking | printing
  deriving DecidableEq, Repr

/-- The outstanding feed ask (R165, R169). -/
structure FeedAsk where
  tag : Nat
  handle : Nat
  distance : Nat
  clipped : Bool
  deriving DecidableEq, Repr

/-- The set verdict fail latch (R175). -/
structure VerdictLatch where
  handle : Nat
  count : Nat
  deriving DecidableEq, Repr

/-- The nine conditions (R173, R192), in the order of R173's table, then ROLL_LOW. -/
inductive Condition where
  | inkOut | rollEnded | cutFault | transportFault | editionHold | verdictFailLatch | refillFault | engineLost | rollLow
  deriving DecidableEq, Repr

/-- A set of the conditions: which of the nine hold, or which a routing enables. -/
structure ConditionSet where
  inkOut : Bool
  rollEnded : Bool
  cutFault : Bool
  transportFault : Bool
  editionHold : Bool
  verdictFailLatch : Bool
  refillFault : Bool
  engineLost : Bool
  rollLow : Bool
  deriving DecidableEq, Repr

/-- The Engine Link Interface's state (R165), the HALT line (R173), and the frames it has sent. -/
structure EngineLink where
  state : EngineState
  /-- when the silence timer expires, while it runs -/
  silence : Option Nat
  feedAsk : Option FeedAsk
  stopped : Option Nat
  lost : Bool
  latch : Option VerdictLatch
  haltRouting : ConditionSet
  halt : Bool
  /-- the tag of an ENGINE_READY that this very command has not answered yet (the model's own, log entry 8) -/
  readyTag : Option Nat
  /-- the frames sent to the engine since power-on, oldest first (the model's own record, log entry 7) -/
  sent : List EngineFrame
  deriving DecidableEq, Repr

/-! ## Control link (chapter 10): replies and notices -/

/-- The reply codes (R182), in the order of their frame codes. -/
inductive ReplyCode where
  | ok | access | state | busy | range | full | notFound | exists_ | closedId | isProtected | tooLate | held | denied
  | mismatch | empty | unknownKind | malformed
  deriving DecidableEq, Repr

/-- The causes of a discarded frame (R180). -/
inductive FrameFault where
  | check | length | gap | overrun
  deriving DecidableEq, Repr

/-- The notice kinds in the order used for flushing (R184). -/
inductive NoticeKind where
  | ink | cartridge | refillFault | print | verdict | edition | roll | cut | costLog | engine | calibration | frameFault
  deriving DecidableEq, Repr

/-- What a PRINT notice reports of its print (R24). -/
inductive PrintNews where
  | waiting (heldFor : List HeldReason)
  | ready
  | startCommitted
  | active (span : Option Span)
  | travel
  | scan
  | separate (outcome : Option PrintOutcome) (number : Option Nat)
  | closed (outcome : Option PrintOutcome) (number : Option Nat) (sequence : Nat)
  | removed
  deriving DecidableEq, Repr

/-- Why a verdict is UNCHECKED (R126). -/
inductive UncheckedCause where
  | invalidReadings | emptySet | length | fault (code : Nat) | timeout
  deriving DecidableEq, Repr

/-- The fields of a VERDICT notice (R126). -/
structure VerdictNews where
  handle : Nat
  jobTag : Nat
  kind : PrintKind
  editionId : Option Nat
  refSet : Nat
  verdict : Verdict
  outcome : PrintOutcome
  number : Option Nat
  /-- the largest ΔE and the patch that gave it, counted from 1 in strip order -/
  largestDE : Option (Nat × Nat)
  overWarn : Nat
  overFail : Nat
  invalid : Nat
  stalePass : Bool
  longGapPass : Bool
  cause : Option UncheckedCause
  deriving DecidableEq, Repr

/-- The events of an EDITION notice, each with the field that goes with it (R145). -/
inductive EditionNews where
  | opened (title : List Byte) (limit apLimit refSet mediaType openedDay : Nat)
  | hold (cause : Option HoldCause)
  | resumed
  | complete (acceptedCost wasteCost : Nat)
  | closed (closedDay : Option Nat) (acceptedCost wasteCost : Nat)
  | archived (acceptedCost wasteCost : Nat)
  deriving DecidableEq, Repr

/-- What every EDITION notice carries beside its event: the id, the state after the event, the counts and both runs
(R145). -/
structure EditionCounts where
  id : Nat
  state : EditionState
  accepted : Nat
  apAccepted : Nat
  rejected : Nat
  spoiled : Nat
  inFlight : Nat
  apInFlight : Nat
  warnRun : Nat
  failRun : Nat
  deriving DecidableEq, Repr

/-- The events of a ROLL notice, with their extra fields (R88). -/
inductive RollNews where
  | loaded (mediaType width serial : Nat)
  | confirmed (mediaType width serial : Nat)
  | low
  | ended
  | tailOut (handles : List Nat)
  | fault (cause : FaultCause) (owner : Option FeedOwner)
  | faultCleared
  | moveDone (distance : Nat)
  | sensorRollPresent (level : Bool)
  | sensorRollEnd (showsMedia : Bool)
  | state (state : RollState)
  deriving DecidableEq, Repr

/-- Why a server cut is dropped (R102). -/
inductive DropReason where
  | covered | replaced | rollLoad | rollConfirm | rollEnd | reset
  deriving DecidableEq, Repr

/-- The events of a CUT notice, with their fields (R104); a cut that closes its print carries the span length too, as
R94 says of the CUT notice. -/
inductive CutNews where
  | done (kind : StationKind) (position : Nat) (handle : Option Nat) (chute : Chute) (pieceStart pieceLength : Nat)
      (closedPrint : Bool) (spanLength : Option Nat)
  | fault (stage : CutStage) (kind : StationKind) (position : Nat) (handle : Option Nat) (chute : Option Chute)
  | dropped (position : Nat) (chute : Option Chute) (reason : DropReason)
  deriving DecidableEq, Repr

/-- The events of an ENGINE notice (R176). HEARD carries the kind code of the frame, FAIL the cause code. -/
inductive EngineNews where
  | lost (handle : Nat)
  | heard (kind : Nat)
  | fail (handle cause : Nat)
  | haltOn (conditions : ConditionSet)
  | haltOff
  deriving DecidableEq, Repr

/-- The event of a CALIBRATION notice (R126): DONE, or FAILED with the head's code or for a timeout. -/
inductive CalibrationNews where
  | done
  | failedFault (code : Nat)
  | failedTimeout
  deriving DecidableEq, Repr

/-- The body of a notice, with the fields its rule names (R24, R40, R46, R88, R104, R126, R145, R162, R176, R180). -/
inductive NoticeBody where
  | ink (channel : Chan) (indication : Indication) (level usable parcels : Nat) (installed : Bool)
  | cartridge (channel : Chan) (slot : SlotState) (fields : Option Cartridge)
  | refillFault (channel : Chan) (target taken : Nat)
  | print (handle jobTag : Nat) (kind : PrintKind) (news : PrintNews)
  | verdict (news : VerdictNews)
  | edition (news : EditionNews) (counts : EditionCounts)
  | roll (news : RollNews) (state : RollState) (head tail alloc : Nat)
  | cut (news : CutNews)
  | costLog (records live free : Nat) (oldest : Option Nat)
  | engine (news : EngineNews) (state : EngineState)
  | calibration (news : CalibrationNews) (requested : Bool) (valid : Bool) (scanCount : Nat)
  | frameFault (cause : FrameFault) (counter : Nat)
  deriving DecidableEq, Repr

/-- A notice kind's mask and pending state (R183, R185). -/
structure NoticeState where
  mask : Bool
  pending : Nat
  kept : Option NoticeBody
  deferred : Bool
  deriving DecidableEq, Repr

/-- The lamp sources, in the order of R190's table. -/
inductive LampSource where
  | anyLow | anyOut | rollLow | rollEnded | printing | verdictFailLatch | editionHold | cutFault | anyPending | on | off
  deriving DecidableEq, Repr

/-- The lamp blink modes (R190). -/
inductive Blink where
  | steady | slow | fast
  deriving DecidableEq, Repr

/-- A lamp's setting (R190). -/
structure LampSetting where
  source : LampSource
  invert : Bool
  blink : Blink
  deriving DecidableEq, Repr

/-- ACCEPT or REJECT (R125). -/
inductive UncheckedPolicy where
  | accept | reject
  deriving DecidableEq, Repr

/-- One setting as now held, as the reply to SETTING_SET carries it (R188). -/
inductive SettingNow where
  | inkMargin (percent : Nat)
  | uncheckedPolicy (policy : UncheckedPolicy)
  | noticeMask (kind : NoticeKind) (mask : Bool)
  | lamp (lamp : Fin 4) (setting : LampSetting)
  | haltRouting (routing : ConditionSet)
  | attnRouting (routing : ConditionSet)
  deriving DecidableEq, Repr

/-- The reply of IDENT (R194). -/
structure IdentReport where
  partCode : Nat
  revision : Nat
  controlFaults : Nat
  engineFaults : Nat
  spectroFaults : Nat
  editions : Nat
  closedIds : Nat
  costRecords : Nat
  memoryEntries : Nat
  setsInUse : Nat
  deriving DecidableEq, Repr

/-- The reply of SETTINGS_QUERY (R189). -/
structure SettingsReport where
  level : AccessLevel
  inkMargin : Nat
  policy : UncheckedPolicy
  lamps : Vector LampSetting 4
  haltRouting : ConditionSet
  attnRouting : ConditionSet
  /-- mask, pending count and deferred mark of each maskable kind, in the order of R184 -/
  notices : List (Bool × Nat × Bool)
  sendCount : Nat
  receiveCount : Nat
  lit : Vector Bool 4
  attn : Bool
  holding : ConditionSet
  deriving DecidableEq, Repr

/-- One line of PRINT_QUERY without a handle (R23). -/
structure PrintLine where
  handle : Nat
  jobTag : Nat
  kind : PrintKind
  state : PrintState
  held : Bool
  readyPlace : Option Nat
  deriving DecidableEq, Repr

/-- The record that PRINT_QUERY replies: every field R1 lists, those that are absent as `none`, and the largest swath
gap in whole seconds (R1, R23). -/
structure PrintReport where
  handle : Nat
  jobTag : Nat
  kind : PrintKind
  editionId : Option Nat
  refSet : Option Nat
  mediaType : Nat
  imageWidth : Nat
  spanLength : Nat
  estimates : PerChan Nat
  held : Bool
  state : PrintState
  /-- present in WAITING -/
  heldFor : Option (List HeldReason)
  reservation : PerChan Nat
  span : Option Span
  consumed : PerChan Nat
  numerators : PerChan Nat
  overdraw : Bool
  swathCount : Nat
  lastSwath : Option Nat
  gapSeconds : Nat
  verdict : Option Verdict
  largestDE : Option Nat
  outcome : Option PrintOutcome
  number : Option Nat
  deriving DecidableEq, Repr

/-- The reply of INK_QUERY for one channel (R47). -/
structure InkReport where
  colourCode : Nat
  slot : SlotState
  fields : Option Cartridge
  level : Nat
  usable : Nat
  committed : Nat
  indication : Indication
  parcels : List Parcel
  lastPrice : Nat
  refill : RefillState
  /-- target, pumped volume so far, volume taken so far, price -/
  job : Option (Nat × Nat × Nat × Nat)
  installed : Bool
  deriving DecidableEq, Repr

/-- One line of INK_QUERY without a channel (R47). -/
structure InkLine where
  colourCode : Nat
  slot : SlotState
  level : Nat
  usable : Nat
  indication : Indication
  refill : RefillState
  deriving DecidableEq, Repr

/-- One line of METER_QUERY (R62): trim, residue, committed total, uncommitted supply. -/
structure MeterLine where
  trim : Nat
  residue : Nat
  committed : Nat
  uncommitted : Nat
  deriving DecidableEq, Repr

/-- The reply of ROLL_QUERY (R87). With no roll, of the roll record it carries the roll state alone. -/
structure RollReport where
  rollState : RollState
  roll : Option RollGeometry
  lowFlag : Option ArmFlag
  transport : TransportState
  feed : Option (FeedOwner × Nat)
  hold : Hold
  cause : Option FaultCause
  headPoint : Option Nat
  rollPresent : Bool
  rollEndMedia : Bool
  stations : List Station
  tailOut : List Nat
  deriving DecidableEq, Repr

/-- The reply of CUT_QUERY (R105). -/
structure CutReport where
  state : CutterState
  current : Option (Station × Option Chute)
  flap : Chute
  flapSettled : Bool
  bladeHome : Bool
  latch : Option CutLatch
  lastCut : Option Nat
  cuts : List Station
  deriving DecidableEq, Repr

/-- The reply of COLOUR_QUERY (R127). -/
structure ColourReport where
  valid : Bool
  scanCount : Nat
  stale : Bool
  spectro : Spectro
  /-- ms the command in flight has run -/
  run : Option Nat
  pendingHandle : Option Nat
  retryLeft : Option Nat
  lastTag : Nat
  policy : UncheckedPolicy
  lastScan : Option LastScan
  deriving DecidableEq, Repr

/-- One line of EDITION_QUERY without an id (R144). -/
structure EditionLine where
  id : Nat
  state : EditionState
  accepted : Nat
  apAccepted : Nat
  deriving DecidableEq, Repr

/-- The reply of ENGINE_QUERY (R177). -/
structure EngineReport where
  state : EngineState
  active : Option Nat
  feedAsk : Option (Nat × Nat)
  silenceLeft : Option Nat
  stopped : Option Nat
  lost : Bool
  latch : Option VerdictLatch
  halt : Bool
  haltRouting : ConditionSet
  holding : ConditionSet
  faults : Nat
  deriving DecidableEq, Repr

/-- The reply of PRICE_QUERY LOG (R163). -/
structure LogReport where
  records : Nat
  live : Nat
  free : Nat
  earlyFull : ArmFlag
  sequence : Nat
  oldest : Option Nat
  youngest : Option Nat
  deriving DecidableEq, Repr

/-- The fields of a reply, as the rule that owns the request names them; `none` for a reply of code and kind alone. -/
inductive ReplyFields where
  | none
  | level (level : AccessLevel)
  | ident (report : IdentReport)
  | day (before : Option Nat) (after : Nat)
  | setting (now : SettingNow)
  | settings (report : SettingsReport)
  | reset (removed closed : Nat) (sequences : List Nat)
  | restored (editions sets : Nat)
  | refillState (state : RefillState)
  | rollState (state : RollState)
  | latch (count handle : Nat)
  | submitted (handle submission : Nat) (state : PrintState) (heldFor : List HeldReason)
  | released (state : PrintState) (heldFor : List HeldReason)
  | cancelRemoved
  | cancelSpoiled
  | print (report : PrintReport)
  | prints (lines : List PrintLine)
  | slot (state : SlotState)
  | ink (report : InkReport)
  | inkLines (lines : List InkLine)
  | trim (value : Nat) (clamped : Bool)
  | dropRow (row : Fin 24) (values : DropRow)
  | manual (on : Bool) (row : Nat)
  | meter (line : MeterLine) (usable : Nat) (holders : List (Nat × PrintState × Nat))
  | meterAll (manualOn : Bool) (manualRow : Fin 24) (lastRow : Option (Fin 24)) (lastSequence : Option Nat)
      (rows : Vector DropRow 24) (lines : List MeterLine)
  | rollGeometry (tail head alloc : Nat)
  | target (position : Nat)
  | roll (report : RollReport)
  | trigger (position : Nat)
  | cutPosition (position : Nat)
  | cut (report : CutReport)
  | refLoaded (index count : Nat) (mode : RefMode)
  | refMode (index : Nat) (mode : RefMode)
  | refSet (index : Nat) (mode : RefMode) (patches : List Patch) (tolerances : Option (Nat × Nat))
  | spectroTag (tag : Nat)
  | colour (report : ColourReport)
  | edition (id : Nat) (state : EditionState)
  | editionState (state : EditionState)
  | editionResumed (state : EditionState) (inFlight apInFlight : Nat)
  | editionClosed (state : EditionState) (closedDay closedCount : Nat)
  | editionsLeft (count : Nat)
  | editionEntry (entry : Edition)
  | editionLines (lines : List EditionLine) (entries closedCount : Nat)
  | closedIds (count : Nat) (ids : List Nat)
  | tariff (lot now before : Nat)
  | mediaEntry (mediaType : Nat) (entry : MediaEntry)
  | costRecord (record : CostRecord) (records free : Nat)
  | costDropped (sequence records free : Nat)
  | oldestSequence (sequence : Nat)
  | noRecord
  | tariffTable (prices : Vector Nat 32)
  | mediaTable (entries : Vector MediaEntry 16)
  | log (report : LogReport)
  | engine (report : EngineReport)
  deriving DecidableEq, Repr

/-- A frame the part sends on the control link (R181, R184): a reply with the tag, code and kind of the request it
answers, or a notice with its count and flags. -/
inductive ControlFrame where
  | reply (tag : Nat) (code : ReplyCode) (kind : Nat) (fields : ReplyFields)
  | notice (count : Nat) (flushed deferred : Bool) (body : NoticeBody)
  deriving DecidableEq, Repr

/-- The Control Link Interface's state: access, passwords, settings, notices, lamps, ATTN, and the two lists. -/
structure ControlLink where
  level : AccessLevel
  studioPassword : Nat
  servicePassword : Nat
  inkMargin : Nat
  policy : UncheckedPolicy
  notices : Vector NoticeState 12
  lamps : Vector LampSetting 4
  lit : Vector Bool 4
  attnRouting : ConditionSet
  attn : Bool
  sendList : List ControlFrame
  receiveList : List Frame
  deriving DecidableEq, Repr

/-! ## Receivers (R179, R180) -/

/-- The six receiver states, each with what the frame has given so far (R179). Body bytes are in order of arrival. -/
inductive Receiver where
  | hunt
  | length (first : Option Byte)
  | kind (len : Nat)
  | tag (len : Nat) (kind : Byte)
  | body (len : Nat) (kind tag : Byte) (bytes : List Byte)
  | check (len : Nat) (kind tag : Byte) (bytes : List Byte) (first : Option Byte)
  deriving DecidableEq, Repr

/-- One link's receiver, its gap timer and its fault counter. -/
structure LinkState where
  receiver : Receiver
  gapDeadline : Option Nat
  faults : Nat
  deriving DecidableEq, Repr

/-- The three links. -/
structure Links where
  control : LinkState
  engine : LinkState
  spectro : LinkState
  deriving DecidableEq, Repr

/-! ## The nonvolatile store's checkpoints and markers (chapter 11)

Every other record of the store equals its running copy between commands, since each commit is made before the event
that caused it completes (R198; log entry 6); the running copy stands for both. -/

/-- One channel's part of the ink checkpoint (R199). -/
structure InkSaved where
  level : Nat
  parcels : List Parcel
  lastPrice : Nat
  residue : Nat
  deriving DecidableEq, Repr

/-- The roll checkpoint (R200). -/
structure RollSaved where
  state : RollState
  roll : RollGeometry
  deriving DecidableEq, Repr

/-- The open-print marker (R201). -/
structure OpenMarker where
  handle : Nat
  jobTag : Nat
  kind : PrintKind
  editionId : Option Nat
  reservation : PerChan Nat
  snapshot : MediaSnapshot
  deriving DecidableEq, Repr

/-- The checkpoints and the markers (R199 to R202). -/
structure Store where
  ink : PerChan InkSaved
  roll : Option RollSaved
  openPrint : Option OpenMarker
  refills : PerChan Bool
  deriving DecidableEq, Repr

/-! ## Start-up, time and inputs -/

/-- How far start-up has come (R203): the lines are not worked out yet; the slots' first reads are outstanding, so
HALT is still held asserted (R173); or done. -/
inductive StartUp where
  | restoring
  | reading (slots : List Chan)
  | running
  deriving DecidableEq, Repr

/-- The free-running timebase in ms since power-on (R191), the day counter, unknown when absent, and the day timer
(R195). -/
structure Clock where
  now : Nat
  day : Option Nat
  dayDeadline : Option Nat
  deriving DecidableEq, Repr

/-- The state of the JK-612, and the queue of the commands that wait, first in, first out. -/
structure State where
  pending : List Instr
  startUp : StartUp
  clock : Clock
  inputs : SensorLevels
  queue : PrintQueue
  ink : InkSupply
  meter : InkMeter
  media : MediaTransport
  cutter : Cutter
  colour : ColourUnit
  registry : Registry
  cost : CostUnit
  engine : EngineLink
  control : ControlLink
  links : Links
  store : Store
  deriving DecidableEq, Repr

/-- Why the machine stops with a fault. The manual names no event that stops this block (every request is answered,
every event has its effect), so there is no fault: the type has no constructor. -/
inductive Fault where
  deriving DecidableEq, Repr

/-- Why a command is refused by the MODEL (a refusal of the part is a reply, and a next state). -/
inductive Refusal where
  /-- Raised by exec's arm for a command that has no meaning yet; safe: nothing can be proved of a run past it. -/
  | notModelled (mnemonic : String)
  deriving DecidableEq, Repr

/-! ## Delivered and power-on values -/

/-- No condition: the factory HALT routing (R173). -/
def ConditionSet.empty : ConditionSet := ⟨false, false, false, false, false, false, false, false, false⟩

/-- All nine conditions: the factory ATTN routing (R188). -/
def ConditionSet.all : ConditionSet := ⟨true, true, true, true, true, true, true, true, true⟩

/-- Row i of the factory drop-volume table (R49). -/
def factoryDropRow (i : Fin 24) : DropRow := ⟨150 + 3 * i.val, 350 + 7 * i.val, 850 + 20 * i.val⟩

/-- The factory drop-volume table (R49). -/
def factoryDropTable : Vector DropRow 24 := Vector.ofFn factoryDropRow

/-- An empty reference set (R106). It holds no tolerances: the two numbers are the model's 0, read by no rule while the
set is empty, and what its query's reply carries in their bytes is open (log entry 39). -/
def RefSet.blank : RefSet := ⟨[], 0, 0, .opened⟩

/-- A media table entry as delivered (R149). -/
def MediaEntry.blank : MediaEntry := ⟨[], 0, 0⟩

/-- The factory lamp settings (R190). -/
def factoryLamps : Vector LampSetting 4 :=
  #v[⟨.anyOut, false, .fast⟩, ⟨.anyLow, false, .steady⟩, ⟨.printing, false, .steady⟩, ⟨.cutFault, false, .slow⟩]

/-- A notice kind with its mask clear and nothing pending (R185). -/
def NoticeState.quiet : NoticeState := ⟨false, 0, none, false⟩

/-- The roll record's parts while the roll is NONE (R67). -/
def RollGeometry.absent : RollGeometry := ⟨0, 0, 0, 0, 0, 0, 0⟩

/-- Channel c as delivered: colour code c + 1 (R26), an empty sub-tank, so OUT (R45), an empty slot. -/
def Channel.delivered (c : Chan) : Channel :=
  { colourCode := c.val + 1, slot := .empty, cartridge := none, level := 0, parcels := [], lastPrice := 0,
    refill := .idle, job := none, indication := .out, installed := false, pumpRun := false }

/-- A receiver at power-on (R179, R180). -/
def LinkState.idle : LinkState := ⟨.hunt, none, 0⟩

/-- The transport, with no roll, at power-on (R69, R77). -/
def MediaTransport.initial : MediaTransport :=
  { rollState := .none, roll := .absent, lowFlag := .armed, stations := [], state := .idle, feed := none,
    movement := none, hold := .none, cause := none }

/-- The cutter at power-on (R89). -/
def Cutter.initial : Cutter :=
  { state := .idle, current := none, chute := none, flap := .waste, latch := none, settleDeadline := none,
    bladeDeadline := none, fire := false, leftRest := false, flapReads := 0 }

/-- The print queue at power-on (R3, R4, R21). -/
def PrintQueue.initial : PrintQueue :=
  { prints := [], readyOrder := [], submissions := 0, lastHandle := 0, flushDeadline := none, flushDue := false }

/-- The engine link at power-on with the given stored routing; HALT is asserted (R165, R203). -/
def EngineLink.initial (routing : ConditionSet) : EngineLink :=
  { state := .idle, silence := none, feedAsk := none, stopped := none, lost := false, latch := none,
    haltRouting := routing, halt := true, readyTag := none, sent := [] }

/-- The part's inputs at State.reset (log entry 2): no cartridge, no roll, the blade at rest and the flap settled. -/
def levelsAtReset : SensorLevels :=
  { cartridge := Vector.replicate 12 false, rollPresent := false, rollEndMedia := false, bladeHome := true,
    flapSettled := true }

/-- The state right after reset: a part as delivered to which power has just been applied, with the volatile values of
R203 step 1 and the delivered store (R198). The POWER_ON command does the rest of R203 (log entry 1). -/
def State.reset : State where
  pending := []
  startUp := .restoring
  clock := ⟨0, none, none⟩
  inputs := levelsAtReset
  queue := .initial
  ink := { channels := Vector.ofFn Channel.delivered, tagQueue := [], tagDeadline := none, memory := [], seen := 0 }
  meter := { dropTable := factoryDropTable, trims := Vector.replicate 12 4096, manualOn := false, manualRow := 12,
             residues := Vector.replicate 12 0, lastRow := none, lastSequence := none }
  media := .initial
  cutter := .initial
  colour := { sets := Vector.replicate 32 .blank, calValid := false, scanCount := 0, spectro := .idle, lastTag := 0,
              pending := none, retryDeadline := none, lastScan := none, sent := [] }
  registry := ⟨[], []⟩
  cost := { tariff := Vector.replicate 32 0, media := Vector.replicate 16 .blank, log := [], sequence := 0,
            earlyFull := .armed }
  engine := .initial .empty
  control := { level := .operator, studioPassword := 0, servicePassword := 0, inkMargin := 5, policy := .reject,
               notices := Vector.replicate 12 .quiet, lamps := factoryLamps, lit := Vector.replicate 4 false,
               attnRouting := .all, attn := false, sendList := [], receiveList := [] }
  links := ⟨.idle, .idle, .idle⟩
  store := { ink := Vector.replicate 12 ⟨0, [], 0, 0⟩, roll := none, openPrint := none,
             refills := Vector.replicate 12 false }

end Sys2Proof.Machine
end

