-- ==== Sys2Proof/Machine/Operands.lean ====
section
/-! DEFINITION. What the code of a command's field stands for, and which values lie in range (section 10.8 and the
owning rules). A code outside its list stands for nothing: the owning rule refuses it RANGE. -/

namespace Sys2Proof.Machine

set_option Elab.async false

open Sys2Proof

/-- The twelve channels in order. -/
def channelList : List Chan := [0, 1, 2, 3, 4, 5, 6, 7, 8, 9, 10, 11]

/-- A channel number 0..11. -/
def channelOf (n : Nat) : Option Chan := if h : n < 12 then some ⟨n, h⟩ else none

/-- A number below a bound. -/
def boundedOf (bound n : Nat) : Option (Fin bound) := if h : n < bound then some ⟨n, h⟩ else none

/-- An access level by its code (section 10.8). -/
def levelOf : Nat → Option AccessLevel
  | 0 => some .operator
  | 1 => some .studio
  | 2 => some .service
  | _ => none

/-- The place of a level in rising order (R187). -/
def AccessLevel.rank : AccessLevel → Nat
  | .operator => 0
  | .studio => 1
  | .service => 2

/-- A request requiring a level is allowed at that level and above (R187). -/
def levelAllows (held required : AccessLevel) : Bool := decide (AccessLevel.rank required ≤ AccessLevel.rank held)

/-- A chute by its code (section 10.8). -/
def chuteOf : Nat → Option Chute
  | 0 => some .basket
  | 1 => some .waste
  | _ => none

/-- A print kind by its code (section 10.8). -/
def printKindOf : Nat → Option PrintKind
  | 0 => some .edition
  | 1 => some .artistProof
  | 2 => some .proof
  | _ => none

/-- Manual mode by its code (section 10.8). -/
def manualModeOf : Nat → Option Bool
  | 0 => some false
  | 1 => some true
  | _ => none

/-! ## The value of SETTING_SET (R188, section 10.8) -/

/-- Byte k of a setting's value. -/
def settingByte (v : BitVec 32) (k : Nat) : Nat := v.toNat / 256 ^ k % 256

/-- The ink margin, 0..25, in byte 0. -/
def inkMarginOf (v : BitVec 32) : Option Nat := if v.toNat ≤ 25 then some v.toNat else none

/-- The unchecked policy in byte 0. -/
def policyOf (v : BitVec 32) : Option UncheckedPolicy :=
  match v.toNat with
  | 0 => some .accept
  | 1 => some .reject
  | _ => none

/-- A maskable notice kind by its frame code (section 10.8, message kinds). -/
def maskableOf : Nat → Option NoticeKind
  | 0x90 => some .ink
  | 0x91 => some .cartridge
  | 0x92 => some .refillFault
  | 0x93 => some .print
  | 0x94 => some .verdict
  | 0x95 => some .edition
  | 0x96 => some .roll
  | 0x97 => some .cut
  | 0x98 => some .costLog
  | 0x99 => some .engine
  | 0x9A => some .calibration
  | _ => none

/-- A flag carried as clear 0 or set 1. -/
def flagOf : Nat → Option Bool
  | 0 => some false
  | 1 => some true
  | _ => none

/-- NOTICE_MASK: byte 0 the kind, byte 1 the mask, the others 0. -/
def noticeMaskOf (v : BitVec 32) : Option (NoticeKind × Bool) :=
  if v.toNat < 65536 then do
    let kind ← maskableOf (settingByte v 0)
    let mask ← flagOf (settingByte v 1)
    return (kind, mask)
  else none

/-- A lamp source by its place in R190's table. -/
def lampSourceOf : Nat → Option LampSource
  | 0 => some .anyLow
  | 1 => some .anyOut
  | 2 => some .rollLow
  | 3 => some .rollEnded
  | 4 => some .printing
  | 5 => some .verdictFailLatch
  | 6 => some .editionHold
  | 7 => some .cutFault
  | 8 => some .anyPending
  | 9 => some .on
  | 10 => some .off
  | _ => none

/-- A blink mode by its code. -/
def blinkOf : Nat → Option Blink
  | 0 => some .steady
  | 1 => some .slow
  | 2 => some .fast
  | _ => none

/-- LAMP: lamp, source, invert, blink, one byte each. -/
def lampOf (v : BitVec 32) : Option (Fin 4 × LampSetting) := do
  let lamp ← boundedOf 4 (settingByte v 0)
  let source ← lampSourceOf (settingByte v 1)
  let invert ← flagOf (settingByte v 2)
  let blink ← blinkOf (settingByte v 3)
  return (lamp, ⟨source, invert, blink⟩)

/-- The set whose bits 0 to 8 a value gives, in the order of R173's table and ROLL_LOW last. -/
def conditionsOfBits (v : BitVec 32) : ConditionSet :=
  { inkOut := v.getLsbD 0, rollEnded := v.getLsbD 1, cutFault := v.getLsbD 2, transportFault := v.getLsbD 3,
    editionHold := v.getLsbD 4, verdictFailLatch := v.getLsbD 5, refillFault := v.getLsbD 6,
    engineLost := v.getLsbD 7, rollLow := v.getLsbD 8 }

/-- HALT_ROUTING: a set of the six routed conditions, bits 2 to 7. -/
def haltRoutingOf (v : BitVec 32) : Option ConditionSet :=
  if v.toNat < 256 ∧ v.toNat % 4 = 0 then some (conditionsOfBits v) else none

/-- ATTN_ROUTING: a set of the nine ATTN conditions, bits 0 to 8. -/
def attnRoutingOf (v : BitVec 32) : Option ConditionSet := if v.toNat < 512 then some (conditionsOfBits v) else none

/-! ## Ranges -/

/-- A title or name: at most n characters, each a byte 20h..7Eh (R128, R149). -/
def textInRange (n : Nat) (text : List Byte) : Bool :=
  decide (text.length ≤ n) && text.all fun b => decide (0x20 ≤ b.toNat ∧ b.toNat ≤ 0x7E)

/-- The RANGE test of a print description, in one (R5). -/
def descriptionInRange (d : PrintDescription) : Bool :=
  (printKindOf d.kindCode).isSome && decide (d.mediaType ≤ 15) &&
  decide (100 ≤ d.imageWidth ∧ d.imageWidth ≤ 1616) && decide (500 ≤ d.spanLength ∧ d.spanLength ≤ 300000) &&
  d.estimates.toList.all (fun e => decide (e ≤ 200000000)) && d.refSet.all (fun r => decide (r ≤ 31)) &&
  (match printKindOf d.kindCode with
   | some .proof => d.editionId.isNone && (d.refSet.isNone || decide (750 ≤ d.spanLength))
   | _ => d.editionId.isSome && decide (750 ≤ d.spanLength))

/-- A patch's targets lie in range (R106). -/
def patchInRange (p : Patch) : Bool :=
  decide (0 ≤ p.targetL ∧ p.targetL ≤ 10000) && decide (-12800 ≤ p.targetA ∧ p.targetA ≤ 12700) &&
  decide (-12800 ≤ p.targetB ∧ p.targetB ≤ 12700)

/-- A tolerance lies in 50..2550 (R106). -/
def toleranceInRange (t : Nat) : Bool := decide (50 ≤ t ∧ t ≤ 2550)

/-- The RANGE test of REFERENCE_LOAD (R107), but for the index. -/
def referenceInRange (count : Nat) (patches : List Patch) (warn fail : Nat) : Bool :=
  decide (4 ≤ count ∧ count ≤ 16) && decide (patches.length = count) && patches.all patchInRange &&
  toleranceInRange warn && toleranceInRange fail && decide (warn ≤ fail)

/-- The RANGE test of EDITION_OPEN (R131). -/
def editionInRange (id : Nat) (title : List Byte) (limit apLimit refSet mediaType : Nat) : Bool :=
  decide (1 ≤ id) && textInRange 24 title && decide (1 ≤ limit ∧ limit ≤ 999) && decide (apLimit ≤ 50) &&
  decide (refSet ≤ 31) && decide (mediaType ≤ 15)

/-- The RANGE test of MEDIA_SET (R150), but for the media type. -/
def mediaInRange (name : List Byte) (price : Nat) (adjustment : Int) : Bool :=
  textInRange 16 name && decide (price ≤ 1000000000) && decide (-200 ≤ adjustment ∧ adjustment ≤ 200)

/-- The RANGE test of ROLL_LOAD (R70). -/
def rollInRange (mediaType width length : Nat) : Bool :=
  decide (mediaType ≤ 15) && decide (254 ≤ width ∧ width ≤ 1626) && decide (1 ≤ length ∧ length ≤ 100000)

/-- The tag read is one the part accepts: R29's three cases, and the fill volume in R27's range 1..1,000,000,000 nL,
outside which the model takes the read for a failed one (log entry 41). -/
def tagInRange (t : TagData) : Bool :=
  decide (1 ≤ t.colour ∧ t.colour ≤ 30) && decide (t.lot ≤ 31) && decide (t.remaining ≤ t.fill) &&
  decide (1 ≤ t.fill ∧ t.fill ≤ 1000000000)

/-! ## Order and place of the notice kinds (R184) -/

/-- The twelve notice kinds in the order used for flushing. -/
def noticeKinds : List NoticeKind :=
  [.ink, .cartridge, .refillFault, .print, .verdict, .edition, .roll, .cut, .costLog, .engine, .calibration,
   .frameFault]

/-- A notice kind's place in that order. -/
def NoticeKind.index : NoticeKind → Fin 12
  | .ink => 0
  | .cartridge => 1
  | .refillFault => 2
  | .print => 3
  | .verdict => 4
  | .edition => 5
  | .roll => 6
  | .cut => 7
  | .costLog => 8
  | .engine => 9
  | .calibration => 10
  | .frameFault => 11

/-- What an EDITION notice carries of its entry at every event (R145). -/
def Edition.counts (e : Edition) : EditionCounts :=
  ⟨e.id, e.state, e.accepted, e.apAccepted, e.rejected, e.spoiled, e.inFlight, e.apInFlight, e.warnRun, e.failRun⟩

/-- OPENED with its extra fields (R145). -/
def Edition.openedNews (e : Edition) : EditionNews :=
  .opened e.title e.limit e.apLimit e.refSet e.mediaType e.openedDay

/-- HOLD with its cause (R145). -/
def Edition.holdNews (e : Edition) : EditionNews := .hold e.holdCause

/-- COMPLETE with both costs (R145). -/
def Edition.completeNews (e : Edition) : EditionNews := .complete e.acceptedCost e.wasteCost

/-- CLOSED with the closed day and both costs (R145). -/
def Edition.closedNews (e : Edition) : EditionNews := .closed e.closedDay e.acceptedCost e.wasteCost

/-- ARCHIVED with both costs (R145). -/
def Edition.archivedNews (e : Edition) : EditionNews := .archived e.acceptedCost e.wasteCost

/-- The kind of a notice body. -/
def NoticeBody.kind : NoticeBody → NoticeKind
  | .ink .. => .ink
  | .cartridge .. => .cartridge
  | .refillFault .. => .refillFault
  | .print .. => .print
  | .verdict .. => .verdict
  | .edition .. => .edition
  | .roll .. => .roll
  | .cut .. => .cut
  | .costLog .. => .costLog
  | .engine .. => .engine
  | .calibration .. => .calibration
  | .frameFault .. => .frameFault

/-- The least whole number of units that covers a quotient: ceil(a / b) for b above 0. -/
def ceilDiv (a b : Nat) : Nat := (a + (b - 1)) / b

end Sys2Proof.Machine
end

