-- ==== Sys2Proof/Machine/Flags.lean ====
section
/-! DEFINITION. Everything the part works out from its state without changing it: supplies and indications, the nine
conditions, HALT, ATTN and the lamps, calibration's staleness, the room in the cost log, and what may start. -/

namespace Sys2Proof.Machine

set_option Elab.async false

open Sys2Proof

/-! ## Prints -/

/-- The print a handle names. -/
def State.findPrint (s : State) (h : Nat) : Option PrintRecord := s.queue.prints.find? fun p => p.handle == h

/-- The ACTIVE print, if any (R3: at most one). -/
def State.active (s : State) : Option PrintRecord := s.queue.prints.find? fun p => p.state == .active

/-- A print is live for cost-log space in every state but WAITING (R2). -/
def PrintRecord.live (p : PrintRecord) : Bool := p.state != .waiting

/-- How many prints are live. -/
def State.liveCount (s : State) : Nat := (s.queue.prints.filter PrintRecord.live).length

/-- The handle of the print being positioned, if any (R14). -/
def State.positioned (s : State) : Option Nat :=
  match s.media.hold with
  | .positioning h => some h
  | _ => none

/-- ACTIVE, TRAVEL, SCAN or SEPARATE: imaged, or being imaged, and still on the roll. -/
def PrintRecord.onRoll (p : PrintRecord) : Bool :=
  match p.state with
  | .active | .travel | .scan | .separate => true
  | _ => false

/-- TRAVEL, SCAN or SEPARATE: its imaging is over. -/
def PrintRecord.imaged (p : PrintRecord) : Bool :=
  match p.state with
  | .travel | .scan | .separate => true
  | _ => false

/-- In flight for its edition: released, and its outcome not yet decided (R2, R129). -/
def PrintRecord.inFlight (p : PrintRecord) : Bool := p.live && p.outcome.isNone

/-- The READY prints in ready order (R3). -/
def State.readyPrints (s : State) : List PrintRecord := s.queue.readyOrder.filterMap s.findPrint

/-! ## Ink (R45, R61) -/

/-- The volume of the cartridge that counts in usable supply: a USABLE slot's (R27). -/
def Channel.cartridgeVolume (ch : Channel) : Nat :=
  if ch.slot = .usable then (ch.cartridge.map (·.remaining)).getD 0 else 0

/-- A channel's usable supply (R45). -/
def Channel.usable (ch : Channel) : Nat := (ch.level - Config.deadVolume) + ch.cartridgeVolume

/-- A channel's indication, worked out (R45). -/
def Channel.worked (ch : Channel) : Indication :=
  if ch.level < Config.deadVolume then .out else if ch.usable < Config.lowSupply then .low else .normal

/-- A channel's record. -/
def State.channel (s : State) (c : Chan) : Channel := s.ink.channels[c]

/-- A channel's usable supply. -/
def State.usable (s : State) (c : Chan) : Nat := (s.channel c).usable

/-- A channel's committed total: the reservations of READY and ACTIVE prints (R61). -/
def State.committed (s : State) (c : Chan) : Nat :=
  ((s.queue.prints.filter fun p => p.state == .ready || p.state == .active).map fun p => p.reservation[c]).sum

/-- The reservation a print takes for an estimate (R60). -/
def reservationFor (estimate margin : Nat) : Nat := ceilDiv (estimate * (100 + margin)) 100

/-! ## Editions (R129, R130) -/

/-- The entry an id names. -/
def State.findEdition (s : State) (id : Nat) : Option Edition := s.registry.table.find? fun e => e.id == id

/-- The count and limit that a print of the kind meets: accepted plus in-flight, and the limit (R130). -/
def Edition.load (e : Edition) : PrintKind → Nat × Nat
  | .edition => (e.accepted + e.inFlight, e.limit)
  | .artistProof => (e.apAccepted + e.apInFlight, e.apLimit)
  | .proof => (0, 1)

/-- The edition has room for one more print of the kind (R130). -/
def Edition.room (e : Edition) (k : PrintKind) : Bool :=
  decide (e.state = .opened) && decide ((e.load k).1 < (e.load k).2)

/-- OPEN, HOLD or COMPLETE: the states that tie an edition to its set (R109, R132). -/
def Edition.tied (e : Edition) : Bool := decide (e.state ≠ .closed)

/-- The edition holds its set FIXED: tied to it, with an accepted print (R109). -/
def Edition.holdsSet (e : Edition) (index : Nat) : Bool :=
  e.tied && e.refSet == index && decide (0 < e.accepted + e.apAccepted)

/-! ## The cost log (R159) -/

/-- The free unreserved space. -/
def State.freeSpace (s : State) : Nat := Config.logRoom - s.cost.log.length - s.liveCount

/-! ## The roll (R86) -/

/-- The roll is low. -/
def MediaTransport.low (m : MediaTransport) : Bool :=
  decide (m.rollState ≠ .none) && decide (m.roll.tail < m.roll.alloc + Config.lowRoll)

/-- The point under the head line: while a movement is under way, its start plus 3 dmm for every 2 ms, never beyond
its target (R68). -/
def Movement.headPoint (m : Movement) (now : Nat) : Nat := min m.target (m.start + 3 * (now - m.began) / 2)

/-- The point under the head line as the roll end uses it (R84): H, or the head point while a movement is under way. -/
def State.headPoint (s : State) : Nat :=
  match s.media.movement with
  | some m => m.headPoint s.clock.now
  | none => s.media.roll.head

/-- A feed is in progress (R77). -/
def State.feeding (s : State) : Bool := s.media.feed.isSome

/-- A stop without a feed owner is running (R79). -/
def State.ownerlessStop (s : State) : Bool := s.media.state == .stoppedAtStation && s.media.feed.isNone

/-- Something other than a CUT_SERVER entry awaits the transport (R21). -/
def State.awaitsTransport (s : State) : Bool :=
  s.media.stations.any (fun e => e.kind != .cutServer) || s.queue.prints.any (·.awaitingTailOut)

/-- Any listed entry, or any print awaiting tail-out, awaits the transport (R21). -/
def State.awaitsAnything (s : State) : Bool :=
  !s.media.stations.isEmpty || s.queue.prints.any (·.awaitingTailOut)

/-- The kinds of entry that are cuts. -/
def StationKind.isCut : StationKind → Bool
  | .scan => false
  | _ => true

/-- A cut is listed at a roll position (R74). -/
def State.cutListed (s : State) (position : Nat) : Bool :=
  s.media.stations.any fun e => e.kind.isCut && e.position == position

/-- The position lies in a span that protects it: of a print past READY, or of the print being positioned (R95). -/
def State.protectedAt (s : State) (position : Nat) : Bool :=
  s.queue.prints.any fun p =>
    (p.onRoll || s.positioned == some p.handle) &&
    match p.span with
    | some sp => decide (sp.start ≤ position ∧ position ≤ sp.stop)
    | none => false

/-- The cutter has a sequence under way. -/
def State.cutting (s : State) : Bool := s.cutter.state == .settingChute || s.cutter.state == .cutting

/-- A cut is being made at a roll position: its sequence is under way, whether its entry is still listed or the RESET
request has emptied the list, or a new base has (R98; log entry 30). -/
def State.cutRunsAt (s : State) (position : Nat) : Bool :=
  s.cutting && s.cutter.current.any fun e => e.position == position

/-- The level of the flap-settled input as it is read now: asserted, and the flap has not left its rest since. No command
is the fall of that input, so whether it has left is a free value (R89, R91; log entry 33). -/
def State.flapLevel (s : State) : Bool := s.inputs.flapSettled && !Config.flapLeftRest s.cutter.flapReads

/-- A scan has been handed and has not ended (R117). -/
def State.scanning (s : State) : Bool :=
  s.colour.pending.isSome ||
  match s.colour.spectro with
  | .scanning .. => true
  | _ => false

/-- Work begun at a stop is still running (R83). -/
def State.workRunning (s : State) : Bool := s.scanning || s.cutting

/-! ## Colour (R113, R114) -/

/-- Calibration is stale. -/
def ColourUnit.stale (u : ColourUnit) : Bool := !u.calValid || decide (Config.staleCount < u.scanCount)

/-! ## The conditions (R173, R192) -/

/-- Which of the nine conditions hold. -/
def State.conditions (s : State) : ConditionSet :=
  { inkOut := s.ink.channels.toList.any fun ch => ch.indication == .out
    rollEnded := s.media.rollState == .ended && s.active.isNone
    cutFault := s.cutter.latch.isSome
    transportFault := s.media.state == .faulted
    editionHold := s.registry.table.any fun e => e.state == .hold
    verdictFailLatch := s.engine.latch.isSome
    refillFault := s.ink.channels.toList.any fun ch => ch.refill == .fault
    engineLost := s.engine.lost
    rollLow := s.media.low }

/-- The conditions in both sets. -/
def ConditionSet.inter (a b : ConditionSet) : ConditionSet :=
  { inkOut := a.inkOut && b.inkOut, rollEnded := a.rollEnded && b.rollEnded, cutFault := a.cutFault && b.cutFault,
    transportFault := a.transportFault && b.transportFault, editionHold := a.editionHold && b.editionHold,
    verdictFailLatch := a.verdictFailLatch && b.verdictFailLatch, refillFault := a.refillFault && b.refillFault,
    engineLost := a.engineLost && b.engineLost, rollLow := a.rollLow && b.rollLow }

/-- The set holds some condition. -/
def ConditionSet.any (a : ConditionSet) : Bool :=
  a.inkOut || a.rollEnded || a.cutFault || a.transportFault || a.editionHold || a.verdictFailLatch || a.refillFault ||
  a.engineLost || a.rollLow

/-- The conditions a HALT routing enables: INK_OUT and ROLL_ENDED always, ROLL_LOW never (R173). -/
def haltEnabled (routing : ConditionSet) : ConditionSet :=
  { routing with inkOut := true, rollEnded := true, rollLow := false }

/-- The enabled conditions that hold. -/
def State.haltCauses (s : State) : ConditionSet := s.conditions.inter (haltEnabled s.engine.haltRouting)

/-- HALT as the conditions give it; asserted until the slots have been read after power-on (R173). -/
def State.haltLevel (s : State) : Bool :=
  match s.startUp with
  | .running => s.haltCauses.any
  | _ => true

/-- ATTN as the conditions give it; not asserted before they are restored (R192). -/
def State.attnLevel (s : State) : Bool :=
  match s.startUp with
  | .restoring => false
  | _ => (s.conditions.inter s.control.attnRouting).any

/-- A lamp source holds (R190). -/
def State.sourceHolds (s : State) : LampSource → Bool
  | .anyLow => s.ink.channels.toList.any fun ch => ch.indication != .normal
  | .anyOut => s.conditions.inkOut
  | .rollLow => s.conditions.rollLow
  | .rollEnded => s.conditions.rollEnded
  | .printing => s.active.isSome
  | .verdictFailLatch => s.conditions.verdictFailLatch
  | .editionHold => s.conditions.editionHold
  | .cutFault => s.conditions.cutFault
  | .anyPending => s.control.notices.toList.take 11 |>.any fun n => decide (0 < n.pending)
  | .on => true
  | .off => false

/-- A blink mode lights an active lamp at a moment of the timebase (R191). -/
def Blink.lights (b : Blink) (now : Nat) : Bool :=
  match b with
  | .steady => true
  | .slow => decide (now % 1000 < 500)
  | .fast => decide (now % 250 < 125)

/-- A lamp's output (R190, R191); dark before the conditions are restored. -/
def State.lampLit (s : State) (l : LampSetting) : Bool :=
  match s.startUp with
  | .restoring => false
  | _ => (s.sourceHolds l.source != l.invert) && l.blink.lights s.clock.now

/-! ## What may begin -/

/-- The transport is free: not FAULTED, no feed, no stop without an owner (R11, R21). -/
def State.transportFree (s : State) : Bool := s.media.state != .faulted && !s.feeding && !s.ownerlessStop

/-- No print is ACTIVE or being positioned. -/
def State.noPrintHolds (s : State) : Bool := s.active.isNone && s.positioned.isNone

/-- A start may be tried (R11). -/
def State.startPossible (s : State) : Bool :=
  s.engine.state == .asking && !s.engine.halt && s.media.rollState == .verified && s.transportFree && s.noPrintHolds

/-- The silence timer may run (R172). -/
def State.silenceMayRun (s : State) : Bool :=
  s.engine.state == .printing && !s.engine.halt && s.engine.feedAsk.isNone

end Sys2Proof.Machine
end

