-- ==== Sys2Proof/Machine/Ops.lean ====
section
/-! DEFINITION. The shared operations that no block owns alone: reading and writing one record of a table, raising and
flushing notices, replying, sending on the engine and spectro links, HALT, the panel, the store's checkpoints. Each is
a function of the state alone, and none touches the queue of waiting commands. -/

namespace Sys2Proof.Machine

set_option Elab.async false

open Sys2Proof

/-- The outcome of a command. -/
abbrev Result := Host.Outcome State Fault Refusal

/-! ## One record of a table -/

/-- The prints whose handle is h, changed. -/
def State.mapPrint (s : State) (h : Nat) (f : PrintRecord → PrintRecord) : State :=
  { s with queue := { s.queue with prints := s.queue.prints.map fun p => if p.handle == h then f p else p } }

/-- The print leaves the queue (R3). -/
def State.dropPrint (s : State) (h : Nat) : State :=
  { s with queue := { s.queue with
      prints := s.queue.prints.filter fun p => p.handle != h
      readyOrder := s.queue.readyOrder.filter fun r => r != h } }

/-- The print leaves the ready order (R3). -/
def State.unready (s : State) (h : Nat) : State :=
  { s with queue := { s.queue with readyOrder := s.queue.readyOrder.filter fun r => r != h } }

/-- A channel's record, changed. -/
def State.mapChannel (s : State) (c : Chan) (f : Channel → Channel) : State :=
  { s with ink := { s.ink with channels := s.ink.channels.set c (f (s.channel c)) } }

/-- The edition entries whose id is the given one, changed. -/
def State.mapEdition (s : State) (id : Nat) (f : Edition → Edition) : State :=
  { s with registry := { s.registry with
      table := s.registry.table.map fun e => if e.id == id then f e else e } }

/-- The edition of a print, if it has one, changed. -/
def State.mapEditionOf (s : State) (p : PrintRecord) (f : Edition → Edition) : State :=
  match p.editionId with
  | some id => s.mapEdition id f
  | none => s

/-- The media block, changed. -/
def State.mapMedia (s : State) (f : MediaTransport → MediaTransport) : State := { s with media := f s.media }

/-- The roll's geometry, changed. -/
def State.mapRoll (s : State) (f : RollGeometry → RollGeometry) : State :=
  { s with media := { s.media with roll := f s.media.roll } }

/-- The cutter, changed. -/
def State.mapCutter (s : State) (f : Cutter → Cutter) : State := { s with cutter := f s.cutter }

/-- The colour check unit, changed. -/
def State.mapColour (s : State) (f : ColourUnit → ColourUnit) : State := { s with colour := f s.colour }

/-- The engine link, changed. -/
def State.mapEngine (s : State) (f : EngineLink → EngineLink) : State := { s with engine := f s.engine }

/-- The control link, changed. -/
def State.mapControl (s : State) (f : ControlLink → ControlLink) : State := { s with control := f s.control }

/-- A count saturating at 65535 rises by one. -/
def rise16 (n : Nat) : Nat := min 65535 (n + 1)

/-- A count saturating at 255 rises by one. -/
def rise8 (n : Nat) : Nat := min 255 (n + 1)

/-- A sum saturating at 2^64 − 1. -/
def add64 (a b : Nat) : Nat := min Config.max64 (a + b)

/-- The in-flight count of a kind, changed (R129). -/
def Edition.mapInFlight (e : Edition) (k : PrintKind) (f : Nat → Nat) : Edition :=
  match k with
  | .edition => { e with inFlight := f e.inFlight }
  | .artistProof => { e with apInFlight := f e.apInFlight }
  | .proof => e

/-- The in-flight count of the print's kind falls by one (R129). -/
def State.lowerInFlight (s : State) (p : PrintRecord) : State :=
  s.mapEditionOf p fun e => e.mapInFlight p.kind (· - 1)

/-- The counts after a spoil: the spoiled count rises, the in-flight count of the kind falls (R129, R139). -/
def Edition.spoil (k : PrintKind) (e : Edition) : Edition :=
  { e.mapInFlight k (· - 1) with spoiled := rise16 e.spoiled }

/-- The edition of a spoiled print counts the spoil (R139). -/
def State.countSpoil (s : State) (p : PrintRecord) : State := s.mapEditionOf p (Edition.spoil p.kind)

/-! ## Notices (R183 to R186) -/

/-- A frame joins the send list. -/
def State.push (s : State) (f : ControlFrame) : State :=
  s.mapControl fun k => { k with sendList := k.sendList ++ [f] }

/-- A notice kind's mask and pending state, changed. -/
def State.mapNotice (s : State) (kind : NoticeKind) (f : NoticeState → NoticeState) : State :=
  s.mapControl fun k => { k with notices := k.notices.set kind.index (f k.notices[kind.index]) }

/-- A notice kind's mask and pending state. -/
def State.notice (s : State) (kind : NoticeKind) : NoticeState := s.control.notices[kind.index]

/-- A notice finds no room while the send list holds 31 frames: one place is kept for a reply (R183). -/
def State.noticeRoom (s : State) : Bool := decide (s.control.sendList.length < Config.sendRoom - 1)

/-- An occurrence that is held: the pending count rises and the body is kept (R185). -/
def NoticeState.hold (n : NoticeState) (b : NoticeBody) : NoticeState :=
  { n with pending := rise8 n.pending, kept := some b }

/-- One occurrence of a notice: held while its kind is masked, deferred while the send list has no room, else sent
with count 1 and no flags (R183, R185). -/
def raise (b : NoticeBody) (s : State) : State :=
  if (s.notice b.kind).mask then s.mapNotice b.kind (·.hold b)
  else if s.noticeRoom then s.push (.notice 1 false false b)
  else s.mapNotice b.kind fun n => { n.hold b with deferred := true }

/-- A pending kind is flushed: its kept body is sent with its count. While the send list has no room it stays pending
with the count and the body it had, and is marked deferred (R183, R186; log entry 40). -/
def flushKind (deferredFlag : Bool) (kind : NoticeKind) (s : State) : State :=
  let n := s.notice kind
  match n.kept with
  | none => s
  | some b =>
    if s.noticeRoom then
      (s.push (.notice n.pending true deferredFlag b)).mapNotice kind fun m =>
        { m with pending := 0, kept := none, deferred := false }
    else s.mapNotice kind fun m => { m with deferred := true }

/-- Each deferred, unmasked kind is flushed in the order of R184 (R183). -/
def flushDeferred (s : State) : State :=
  noticeKinds.foldl (fun t kind =>
    if (t.notice kind).deferred && !(t.notice kind).mask then flushKind true kind t else t) s

/-! ## Replies (R181, R182) -/

/-- The reply to a request joins the send list, where one place is kept for it. A list that already holds 32 frames
sends its oldest first (log entry 11). -/
def reply (tag : Nat) (code : ReplyCode) (kind : Nat) (fields : ReplyFields) (s : State) : State :=
  let s := if s.control.sendList.length < Config.sendRoom then s
    else s.mapControl fun k => { k with sendList := k.sendList.drop 1 }
  s.push (.reply tag code kind fields)

/-- A request: refused ACCESS below its level, else what its own rule does (R182). -/
def request (tag kind : Nat) (level : AccessLevel) (body : State → State) (s : State) : State :=
  if levelAllows s.control.level level then body s else reply tag .access kind .none s

/-! ## Frames to the engine and the spectro head -/

/-- A frame goes to the engine. -/
def State.tell (s : State) (f : EngineFrame) : State := s.mapEngine fun e => { e with sent := e.sent ++ [f] }

/-- A command goes to the spectro head. -/
def State.command (s : State) (f : SpectroCommand) : State := s.mapColour fun u => { u with sent := u.sent ++ [f] }

/-! ## Notices of the blocks -/

/-- A PRINT notice of the print a handle names (R24). -/
def printNotice (h : Nat) (news : PrintNews) (s : State) : State :=
  match s.findPrint h with
  | some p => raise (.print h p.jobTag p.kind news) s
  | none => s

/-- A ROLL notice (R88). With no roll it carries zeros for H, L and A, whatever its event (log entry 29). -/
def rollNotice (news : RollNews) (s : State) : State :=
  raise (.roll news s.media.rollState s.media.roll.head s.media.roll.tail s.media.roll.alloc) s

/-- A CUT notice (R104). -/
def cutNotice (news : CutNews) (s : State) : State := raise (.cut news) s

/-- An ENGINE notice, with the engine state after the event (R176). -/
def engineNotice (news : EngineNews) (s : State) : State := raise (.engine news s.engine.state) s

/-- An EDITION notice of the entry an id names: the event with its own field, and what every such notice carries
(R145). -/
def editionNotice (news : Edition → EditionNews) (id : Nat) (s : State) : State :=
  match s.findEdition id with
  | some e => raise (.edition (news e) e.counts) s
  | none => s

/-- A CARTRIDGE notice (R46). -/
def cartridgeNotice (c : Chan) (s : State) : State :=
  raise (.cartridge c (s.channel c).slot (s.channel c).cartridge) s

/-- An INK notice: it carries the installed mark while the flag is set, and clears the flag (R46). R46 speaks of a notice
that "is sent"; the model clears the flag at the occurrence, held, deferred or sent (log entry 34). -/
def inkNotice (c : Chan) (s : State) : State :=
  let ch := s.channel c
  (raise (.ink c ch.indication ch.level ch.usable ch.parcels.length ch.installed) s).mapChannel c fun ch =>
    { ch with installed := false }

/-- A dropped server cut is reported (R102). -/
def reportDropped (reason : DropReason) (entries : List Station) (s : State) : State :=
  entries.foldl (fun t e => cutNotice (.dropped e.position e.chute reason) t) s

/-! ## HALT and the silence timer (R172 to R174) -/

/-- The silence timer starts from a full 30 s where it may run, and is stopped where it may not. -/
def silenceStart (s : State) : State :=
  s.mapEngine fun e =>
    { e with silence := if s.silenceMayRun then some (s.clock.now + Config.silenceTime) else none }

/-- A frame of the engine starts a running silence timer again (R172). -/
def silenceRefresh (s : State) : State :=
  s.mapEngine fun e => { e with silence := e.silence.map fun _ => s.clock.now + Config.silenceTime }

/-- HALT is worked out afresh. A rise stops the silence timer, a drop starts it where it may run, and either sends an
ENGINE notice (R174). The start that a drop makes possible is tried when the event ends (log entry 8). -/
def haltUpdate (s : State) : State :=
  let level := s.haltLevel
  if level = s.engine.halt then s
  else
    let s := silenceStart (s.mapEngine fun e => { e with halt := level })
    engineNotice (if level then .haltOn s.haltCauses else .haltOff) s

/-! ## The panel (R190, R192) -/

/-- ATTN and every lamp are worked out. -/
def refreshPanel (s : State) : State :=
  s.mapControl fun k =>
    { k with attn := s.attnLevel, lit := Vector.ofFn fun i : Fin 4 => s.lampLit k.lamps[i] }

/-! ## Checkpoints (R199, R200) -/

/-- A channel's part of the ink checkpoint. -/
def savedInk (ch : Channel) (residue : Nat) : InkSaved := ⟨ch.level, ch.parcels, ch.lastPrice, residue⟩

/-- The ink checkpoint is written: all twelve channels as they stand (R199). -/
def saveInk (s : State) : State :=
  { s with store := { s.store with
      ink := Vector.ofFn fun c : Chan => savedInk (s.channel c) s.meter.residues[c] } }

/-- The roll checkpoint is written (R200). With no roll there is nothing to write. -/
def saveRoll (s : State) : State :=
  if s.media.rollState = .none then s
  else { s with store := { s.store with roll := some ⟨s.media.rollState, s.media.roll⟩ } }

/-- A channel's refill marker is written or cleared (R202). -/
def setRefillMarker (c : Chan) (present : Bool) (s : State) : State :=
  { s with store := { s.store with refills := s.store.refills.set c present } }

/-- The open-print marker is written or cleared (R201). -/
def setOpenMarker (m : Option OpenMarker) (s : State) : State :=
  { s with store := { s.store with openPrint := m } }

/-! ## The roll-low and early-full flags (R86, R162) -/

/-- While ARMED, the roll becoming low sends a ROLL notice LOW and sets the flag SENT (R86). -/
def rollLowCheck (s : State) : State :=
  if s.media.lowFlag = .armed ∧ s.media.low then
    rollNotice .low (s.mapMedia fun m => { m with lowFlag := .sent })
  else s

/-- The early-full flag acts on the free unreserved space after a change of it (R162). -/
def earlyFullCheck (s : State) : State :=
  if s.freeSpace ≤ 8 then
    match s.cost.earlyFull with
    | .armed =>
      raise (.costLog s.cost.log.length s.liveCount s.freeSpace (s.cost.log.head?.map (·.sequence)))
        { s with cost := { s.cost with earlyFull := .sent } }
    | .sent => s
  else { s with cost := { s.cost with earlyFull := .armed } }

/-! ## The station list (R74 to R76) -/

/-- The order of two entries: by trigger, a SCAN before a cut at one trigger (R74). -/
def Station.before (a b : Station) : Bool :=
  decide (a.trigger < b.trigger) || (a.trigger == b.trigger && a.kind == .scan && b.kind != .scan)

/-- An entry joins the list in its place. -/
def insertStation (e : Station) : List Station → List Station
  | [] => [e]
  | x :: xs => if e.before x then e :: x :: xs else x :: insertStation e xs

/-- An entry is listed. -/
def listStation (e : Station) (s : State) : State :=
  s.mapMedia fun m => { m with stations := insertStation e m.stations }

/-- The entries that satisfy a test leave the list. -/
def unlist (test : Station → Bool) (s : State) : State :=
  s.mapMedia fun m => { m with stations := m.stations.filter fun e => !test e }

/-- The trigger position of an entry of a kind at a roll position (R68). -/
def triggerOf (kind : StationKind) (position : Nat) : Nat :=
  match kind with
  | .scan => position + Config.spectroOffset
  | _ => position + Config.cutterOffset

/-- An entry of a kind, with the trigger its position gives. -/
def stationAt (kind : StationKind) (position : Nat) (handle : Option Nat) (chute : Option Chute) : Station :=
  ⟨kind, position, triggerOf kind position, handle, chute⟩

/-- Time passes to a deadline (log entry 4). -/
def timeTo (deadline : Nat) (s : State) : State :=
  { s with clock := { s.clock with now := max s.clock.now deadline } }

end Sys2Proof.Machine
end

