-- ==== Sys2Proof/Machine/Release.lean ====
section
/-! DEFINITION. The release checks and the ways a READY print loses its place (chapter 1.3, R10, R15; R71; R134). -/

namespace Sys2Proof.Machine

set_option Elab.async false

open Sys2Proof

/-- The length of roll a print asks for: its span and 60 dmm (R6). -/
def PrintRecord.rollNeed (p : PrintRecord) : Nat := p.spanLength + 60

/-- The roll has the print's media and width (R6, R71). -/
def rollSuits (r : RollGeometry) (p : PrintRecord) : Bool :=
  decide (r.mediaType = p.mediaType) && decide (p.imageWidth + 10 ≤ r.width)

/-- The roll room that the READY prints not being positioned already claim (R6). -/
def State.claimedRoll (s : State) : Nat :=
  ((s.queue.prints.filter fun q => q.state == .ready && s.positioned != some q.handle).map PrintRecord.rollNeed).sum

/-- R6's media condition, tested while the roll is not UNVERIFIED. -/
def State.mediaFits (s : State) (p : PrintRecord) : Bool :=
  decide (s.media.rollState = .verified) && rollSuits s.media.roll p &&
  decide (max s.media.roll.alloc s.media.roll.head + 30 + (s.claimedRoll + p.rollNeed) ≤ s.media.roll.tail)

/-- R6's edition condition (R130). -/
def State.editionFits (s : State) (p : PrintRecord) : Bool :=
  match p.kind, p.editionId with
  | .proof, _ => true
  | k, some id =>
    match s.findEdition id with
    | some e => e.room k
    | none => false
  | _, none => false

/-- The reservation the print would take on a channel (R6, R60). -/
def State.wanted (s : State) (p : PrintRecord) (c : Chan) : Nat :=
  reservationFor p.estimates[c] s.control.inkMargin

/-- R6's ink condition on one channel; a zero reservation always fits. -/
def State.inkFits (s : State) (p : PrintRecord) (c : Chan) : Bool :=
  decide (s.wanted p c = 0) || decide (s.committed c + s.wanted p c ≤ s.usable c)

/-- R6's cost-space condition for a WAITING print. -/
def State.costFits (s : State) : Bool := decide (s.cost.log.length + s.liveCount < Config.logRoom)

/-- The reasons a WAITING print fails, in the order of R6's table. -/
def State.heldReasons (s : State) (p : PrintRecord) : List HeldReason :=
  (if p.held then [.heldFlag] else []) ++
  (if s.media.rollState = .unverified then [.rollUnverified] else if s.mediaFits p then [] else [.media]) ++
  (if s.editionFits p then [] else [.edition]) ++
  ((channelList.filter fun c => !s.inkFits p c).map HeldReason.ink) ++
  (if s.costFits then [] else [.costSpace])

/-- A WAITING print is released: reservations, in-flight count, READY at the end of the ready order (R7). -/
def releasePrint (p : PrintRecord) (s : State) : State :=
  let want := Vector.ofFn fun c : Chan => s.wanted p c
  let s := s.mapEditionOf p fun e => e.mapInFlight p.kind (· + 1)
  let s := s.mapPrint p.handle fun q => { q with state := .ready, heldFor := [], reservation := want }
  let s := { s with queue := { s.queue with readyOrder := s.queue.readyOrder ++ [p.handle] } }
  earlyFullCheck (printNotice p.handle .ready s)

/-- One print of a release run (R7). -/
def visitWaiting (s : State) (h : Nat) : State :=
  match s.findPrint h with
  | none => s
  | some p =>
    if p.state = .waiting then
      let why := s.heldReasons p
      if why = [] then releasePrint p s
      else if why = p.heldFor then s
      else printNotice h (.waiting why) (s.mapPrint h fun q => { q with heldFor := why })
    else s

/-- A run of the release checks: each WAITING print once, in submission order (R7). -/
def releaseChecks (s : State) : State := (s.queue.prints.map (·.handle)).foldl visitWaiting s

/-- A start is abandoned: the print's entries leave the list, its span and snapshot are dropped, the hold ends and the
feed in progress is told to end; A keeps its value (R15, R151). -/
def abandonStart (h : Nat) (s : State) : State :=
  let s := unlist (fun e => e.handle == some h) s
  let s := s.mapMedia fun m => { m with hold := .none, feed := m.feed.map fun f => { f with ending := true } }
  s.mapPrint h fun p => { p with span := none, snapshot := none }

/-- A READY print that is being positioned loses its start (R15). -/
def abandonIfPositioned (h : Nat) (s : State) : State :=
  if s.positioned = some h then abandonStart h s else s

/-- The twelve zero reservations. -/
def noReservation : PerChan Nat := Vector.replicate 12 0

/-- A READY print goes back to WAITING: its reservations, its place in the edition and in the ready order, and a start
that it has, are given back (R10, R15). -/
def giveBack (p : PrintRecord) (reason : HeldReason) (s : State) : State :=
  let s := ((abandonIfPositioned p.handle s).lowerInFlight p).mapPrint p.handle fun q =>
    { q with state := .waiting, reservation := noReservation, heldFor := [reason] }
  s.unready p.handle

/-- A READY print returns to WAITING with one reason; the release checks follow (R10). -/
def returnToWaiting (h : Nat) (reason : HeldReason) (s : State) : State :=
  match s.findPrint h with
  | none => s
  | some p =>
    if p.state = .ready then
      releaseChecks (earlyFullCheck (printNotice h (.waiting [reason]) (giveBack p reason s)))
    else s

/-- The roll re-check's test of one print against a running sum (R71). -/
def recheckFits (m : MediaTransport) (sum : Nat) (p : PrintRecord) : Bool :=
  rollSuits m.roll p && decide (sum + p.rollNeed ≤ m.roll.tail) && decide (m.rollState ≠ .ended)

/-- The READY prints that the roll re-check finds no longer fit, in ready order (R71). -/
def recheckFailures (m : MediaTransport) : Nat → List PrintRecord → List Nat
  | _, [] => []
  | sum, p :: ps =>
    if recheckFits m sum p then recheckFailures m (sum + p.rollNeed) ps
    else p.handle :: recheckFailures m sum ps

/-- The roll re-check (R71). -/
def rollRecheck (s : State) : State :=
  (recheckFailures s.media (max s.media.roll.alloc s.media.roll.head + 30) s.readyPrints).foldl
    (fun t h => returnToWaiting h .media t) s

/-- The READY prints of an edition, in ready order. -/
def State.readyOf (s : State) (id : Nat) : List Nat :=
  (s.readyPrints.filter fun p => p.editionId == some id).map (·.handle)

/-- An edition has entered HOLD: its READY prints return, youngest first, and a notice reports the HOLD (R134). Each
return runs the release checks; with none to return the change of the edition's state runs them (R7). -/
def holdEffects (id : Nat) (s : State) : State :=
  let ready := s.readyOf id
  let s := if ready = [] then releaseChecks s
    else ready.reverse.foldl (fun t h => returnToWaiting h .edition t) s
  editionNotice Edition.holdNews id s

end Sys2Proof.Machine
end

