-- ==== Sys2Proof/Machine/Ink.lean ====
section
/-! DEFINITION. Reservation repair, the cartridge memory table, the tag bus, parcels and refills (chapters 2 and 3.4). -/

namespace Sys2Proof.Machine

set_option Elab.async false

open Sys2Proof

/-! ## Reservation repair (R63 to R65) -/

/-- The youngest READY print that holds a reservation on the channel. -/
def State.youngestHolder (s : State) (c : Chan) : Option PrintRecord :=
  (s.readyPrints.filter fun p => decide (0 < p.reservation[c])).getLast?

/-- The ACTIVE print's reservation on a channel is clipped to the usable supply (R64). -/
def clipActive (c : Chan) (s : State) : State :=
  match s.active with
  | none => s
  | some p =>
    let supply := s.usable c
    s.mapPrint p.handle fun q => { q with reservation := q.reservation.set c (min q.reservation[c] supply) }

/-- Reservation repair on a channel; the fuel is above the number of prints that can return (R64, log entry 27). -/
def repairLoop : Nat → Chan → State → State
  | 0, _, s => s
  | n + 1, c, s =>
    if s.committed c ≤ s.usable c then s
    else
      match s.youngestHolder c with
      | some p => repairLoop n c (returnToWaiting p.handle (.ink c) s)
      | none => clipActive c s

/-- Reservation repair on a channel (R64). -/
def repair (c : Chan) (s : State) : State := repairLoop (Config.queueRoom + 1) c s

/-- What a channel's event hands on, given the state before it: a fall of usable supply runs the repair, and a change
of supply or of slot state runs the release checks (R7, R45). -/
def handOn (c : Chan) (before : State) (s : State) : State :=
  let s := if s.usable c < before.usable c then repair c s else s
  if s.usable c = before.usable c ∧ (s.channel c).slot = (before.channel c).slot then s else releaseChecks s

/-- The indication is worked out anew; a change sends an INK notice, and HALT follows it (R45). -/
def updateIndication (c : Chan) (s : State) : State :=
  let ind := (s.channel c).worked
  if ind = (s.channel c).indication then s
  else haltUpdate (inkNotice c (s.mapChannel c fun ch => { ch with indication := ind }))

/-! ## The cartridge memory table (R32) -/

/-- How long ago a stamp was written, counted by the seen counter across its wrap. -/
def stampAge (seen stamp : Nat) : Nat := (seen + Config.size32 - stamp) % Config.size32

/-- The place of the oldest entry of the table. -/
def oldestEntry (seen : Nat) (table : List MemoryEntry) : Nat :=
  let ages := table.map fun e => stampAge seen e.stamp
  ages.findIdx fun a => a == ages.foldl max 0

/-- The table after an entry write: replaced by serial, added, or put in the oldest entry's place. -/
def writeEntry (table : List MemoryEntry) (e : MemoryEntry) : List MemoryEntry :=
  if table.any (fun x => x.serial == e.serial) then table.map fun x => if x.serial == e.serial then e else x
  else if table.length < Config.memoryRoom then table ++ [e]
  else table.set (oldestEntry e.stamp table) e

/-- An entry of the cartridge memory table is written with the next stamp. -/
def memoryWrite (serial remaining : Nat) (s : State) : State :=
  let seen := (s.ink.seen + 1) % Config.size32
  { s with ink := { s.ink with seen := seen, memory := writeEntry s.ink.memory ⟨serial, remaining, seen⟩ } }

/-! ## The tag bus (R28) -/

/-- The slot of a transfer. -/
def TagTransfer.slot : TagTransfer → Chan
  | .read c => c
  | .mark c _ => c
  | .volume c _ => c

/-- A transfer joins the queue; with none under way it begins. -/
def queueTransfer (t : TagTransfer) (s : State) : State :=
  { s with ink := { s.ink with
      tagQueue := s.ink.tagQueue ++ [t]
      tagDeadline := if s.ink.tagQueue = [] then some (s.clock.now + Config.tagTimeout) else s.ink.tagDeadline } }

/-- The queue becomes the given one with a new transfer at its front, which begins now. -/
def beginTransfer (q : List TagTransfer) (s : State) : State :=
  { s with ink := { s.ink with
      tagQueue := q
      tagDeadline := if q = [] then none else some (s.clock.now + Config.tagTimeout) } }

/-- The transfer under way has ended; the next begins. -/
def nextTransfer (s : State) : State := beginTransfer (s.ink.tagQueue.drop 1) s

/-- A slot's sensor has fallen: its transfers leave the queue, the one under way included. -/
def dropTransfers (c : Chan) (s : State) : State :=
  let q := s.ink.tagQueue.filter fun t => t.slot != c
  if (s.ink.tagQueue.head?.map TagTransfer.slot) = some c then beginTransfer q s
  else { s with ink := { s.ink with tagQueue := q } }

/-! ## Refills (R36 to R43) -/

/-- The pumped volume of a refill (R38). -/
def RefillJob.pumped (j : RefillJob) : Nat := min (Config.pulseVolume * j.pulses) j.target

/-- The refill timeout for a target, in ms (R37). -/
def refillTime (target : Nat) : Nat := ceilDiv target 500 + 5000

/-- The pump is run toward a job's target: marker, run line, timeout (R37, R43). -/
def runPump (c : Chan) (job : RefillJob) (s : State) : State :=
  (setRefillMarker c true s).mapChannel c fun ch =>
    { ch with refill := .pumping, pumpRun := true
              job := some { job with pulses := 0, deadline := some (s.clock.now + refillTime job.target) } }

/-- A refill starts at the tariff price of the cartridge's lot class (R37). -/
def startRefill (c : Chan) (s : State) : State :=
  let ch := s.channel c
  match ch.cartridge with
  | none => s
  | some k =>
    runPump c
      { target := min Config.refillUnit (min k.remaining (Config.tankCapacity - ch.level))
        taken := 0, price := (s.cost.tariff[k.lot]?).getD 0, lot := k.lot, serial := k.serial
        pulses := 0, parcelIn := false, deadline := none } s

/-- The channel's refill state with no refill in progress. -/
def setRefill (c : Chan) (state : RefillState) (s : State) : State :=
  s.mapChannel c fun ch => { ch with refill := state, job := none }

/-- A channel in IDLE or WAITING is reconsidered (R36). -/
def reconsider (c : Chan) (s : State) : State :=
  let ch := s.channel c
  if ch.refill = .idle ∨ ch.refill = .waiting then
    if Config.refillTrigger < ch.level then setRefill c .idle s
    else if ch.slot ≠ .usable ∨ Config.parcelRoom ≤ ch.parcels.length then setRefill c .waiting s
    else if s.active.isSome ∧ Config.printFloor ≤ ch.level then setRefill c .idle s
    else startRefill c s
  else s

/-- A parcel queue after a refill's volume joins it: in the refill's own parcel, which is the last, or as a new one
(R35, R38). -/
def addVolume (j : RefillJob) (v : Nat) (parcels : List Parcel) : List Parcel :=
  if j.parcelIn then
    match parcels.getLast? with
    | some p => parcels.dropLast ++ [{ p with volume := p.volume + v }]
    | none => [⟨v, j.price, j.lot, j.serial⟩]
  else parcels ++ [⟨v, j.price, j.lot, j.serial⟩]

/-- The tank side of a taking (R38, steps 1 and 3): parcel, level, volume taken; pulses and timeout stop. The target stays
that of the last pump start, and a SUSPENDED refill reports it (R36, R42, R47; log entry 35). -/
def takeIntoTank (j : RefillJob) (ch : Channel) : Channel :=
  let v := j.pumped
  let kept := { j with pulses := 0, deadline := none }
  if v = 0 then { ch with job := some kept, pumpRun := false }
  else { ch with parcels := addVolume j v ch.parcels, level := ch.level + v, pumpRun := false
                 job := some { kept with taken := j.taken + v, parcelIn := true } }

/-- The slot becomes SPENT, with a CARTRIDGE notice when it was not (R38, R41, R46). -/
def makeSpent (c : Chan) (s : State) : State :=
  if (s.channel c).slot = .spent then s
  else cartridgeNotice c (s.mapChannel c fun ch => { ch with slot := .spent })

/-- The cartridge's remaining volume is set: record, memory table and a queued tag write (R32, R38, R41). -/
def setRemaining (c : Chan) (remaining : Nat) (s : State) : State :=
  match (s.channel c).cartridge with
  | none => s
  | some k =>
    queueTransfer (.volume c remaining) (memoryWrite k.serial remaining
      (s.mapChannel c fun ch => { ch with cartridge := some { k with remaining := remaining } }))

/-- The pump is stopped and the pumped volume taken (R38). -/
def take (c : Chan) (s : State) : State :=
  match (s.channel c).job, (s.channel c).cartridge with
  | some j, some k =>
    let left := k.remaining - j.pumped
    let s := s.mapChannel c (takeIntoTank j)
    let s := saveInk (setRefillMarker c false (setRemaining c left s))
    if left = 0 then makeSpent c s else s
  | _, _ => s

/-- A refill has ended: while the installed flag is set, an INK notice carries it, whether or not it is the refill that
the insertion started (R46, R48; log entry 26). -/
def installedNotice (c : Chan) (s : State) : State :=
  if (s.channel c).installed then inkNotice c s else s

/-- A refill ends: its record is dropped, an INK notice carries a set installed flag, and the channel is reconsidered
(R36, R38, R46). -/
def endRefill (c : Chan) (s : State) : State := reconsider c (installedNotice c (setRefill c .idle s))

/-- The pumped volume has reached the target: the refill completes (R38). -/
def completeRefill (c : Chan) (s : State) : State :=
  handOn c s (endRefill c (updateIndication c (take c s)))

/-- The target of a resumption (R43). -/
def resumeTarget (ch : Channel) (j : RefillJob) : Nat :=
  min (Config.refillUnit - j.taken)
    (min ((ch.cartridge.map (·.remaining)).getD 0) (Config.tankCapacity - ch.level))

/-- A SUSPENDED refill resumes, or ends (R43). -/
def resumeRefill (c : Chan) (s : State) : State :=
  let ch := s.channel c
  match ch.refill, ch.job with
  | .suspended, some j =>
    let target := resumeTarget ch j
    if target = 0 then endRefill c s
    else if j.parcelIn ∨ ch.parcels.length < Config.parcelRoom then runPump c { j with target := target } s
    else endRefill c s
  | _, _ => s

/-- A PUMPING refill at or above the print floor is suspended (R42). -/
def suspendRefill (c : Chan) (s : State) : State :=
  let ch := s.channel c
  if ch.refill = .pumping ∧ Config.printFloor ≤ ch.level then
    handOn c s (updateIndication c ((take c s).mapChannel c fun ch => { ch with refill := .suspended }))
  else s

/-- A print becomes ACTIVE: refills are suspended and the idle channels reconsidered (R36, R42). -/
def inkPrintBegins (s : State) : State :=
  channelList.foldl (fun t c => reconsider c (suspendRefill c t)) s

/-- A print leaves ACTIVE: suspended refills resume and the idle channels are reconsidered (R36, R43). -/
def inkPrintEnds (s : State) : State :=
  channelList.foldl (fun t c =>
    if (t.channel c).refill = .suspended then resumeRefill c t else reconsider c t) s

/-! ## Judging a cartridge (R30, R31) -/

/-- An OPENED cartridge has expired by a known day (R30, step 3). -/
def Cartridge.expired (k : Cartridge) : Option Nat → Bool
  | some day => k.opened && decide (k.openedDay + 180 < day)
  | none => false

/-- The slot state steps 2 to 5 of R30 give a cartridge. -/
def judgeCartridge (day : Option Nat) (code : Nat) (k : Cartridge) : SlotState :=
  if k.colour ≠ code then .refused .colour
  else if k.expired day then .refused .expired
  else if k.remaining = 0 then .spent
  else .usable

/-- The lower of the tag's remaining volume and the memory table's for the serial (R30, step 1). -/
def rememberedVolume (table : List MemoryEntry) (serial remaining : Nat) : Nat :=
  match table.find? fun e => e.serial == serial with
  | some e => min remaining e.remaining
  | none => remaining

/-- A cartridge becomes USABLE or SPENT: the memory table is written, and a FRESH usable one is marked (R30, R31). -/
def recordJudged (c : Chan) (k : Cartridge) (slot : SlotState) (s : State) : State :=
  match slot with
  | .usable =>
    let s := memoryWrite k.serial k.remaining s
    if k.opened then s else queueTransfer (.mark c (s.clock.day.getD 0)) s
  | .spent => memoryWrite k.serial k.remaining s
  | _ => s

/-- The CARTRIDGE notice of a judgement, but where the insertion starts a waiting refill: then the installed flag is
set in its place (R46). The first state is the one before the channel was reconsidered. -/
def announceSlot (c : Chan) (before : State) (s : State) : State :=
  if (s.channel c).slot = .usable ∧ (before.channel c).refill = .waiting ∧ (s.channel c).refill = .pumping then
    s.mapChannel c fun ch => { ch with installed := true }
  else cartridgeNotice c s

/-- The ink checkpoint of a judgement that leaves the slot USABLE or SPENT (R199). -/
def saveJudged (slot : SlotState) (s : State) : State :=
  match slot with
  | .usable | .spent => saveInk s
  | _ => s

/-- A judgement takes effect on its slot, by a read or by a change of colour code, which always sends its notice (R26,
R30, R31, R46; log entry 12). -/
def applyJudgement (insertion : Bool) (c : Chan) (k : Cartridge) (slot : SlotState) (s : State) : State :=
  let judged := recordJudged c k slot (s.mapChannel c fun ch => { ch with slot := slot, cartridge := some k })
  let s' := reconsider c judged
  let s' := if insertion then announceSlot c judged s' else cartridgeNotice c s'
  handOn c s (updateIndication c (saveJudged slot s'))

/-- A read failed: the slot becomes REFUSED(TAG) (R29). -/
def refuseTag (c : Chan) (s : State) : State :=
  let s' := s.mapChannel c fun ch => { ch with slot := .refused .tag, cartridge := none }
  handOn c s (updateIndication c (cartridgeNotice c (reconsider c s')))

/-- The cartridge fields from a tag read, with the remembered volume (R30). -/
def cartridgeFrom (table : List MemoryEntry) (t : TagData) : Cartridge :=
  { serial := t.serial, colour := t.colour, lot := t.lot, fill := t.fill
    remaining := rememberedVolume table t.serial t.remaining, opened := t.opened, openedDay := t.openedDay }

/-- The outcome of the read for a slot (R29, R30). -/
def readOutcome (c : Chan) (result : Option TagData) (s : State) : State :=
  match result with
  | none => refuseTag c s
  | some t =>
    if tagInRange t then
      let k := cartridgeFrom s.ink.memory t
      applyJudgement true c k (judgeCartridge s.clock.day (s.channel c).colourCode k) s
    else refuseTag c s

/-- A slot's first read after power-on is over; with none outstanding HALT is worked out (R173, R203 step 7). -/
def firstReadOver (c : Chan) (s : State) : State :=
  match s.startUp with
  | .reading slots =>
    let left := slots.filter fun d => d != c
    if left = [] then haltUpdate { s with startUp := .running } else { s with startUp := .reading left }
  | _ => s

/-- A slot becomes EMPTY: the fields, the queued transfers and the installed flag go (R27, R28, R46). -/
def emptySlot (c : Chan) (s : State) : State :=
  (dropTransfers c s).mapChannel c fun ch => { ch with slot := .empty, cartridge := none, installed := false }

end Sys2Proof.Machine
end

