-- ==== Sys2Proof/Machine/Meter.lean ====
section
/-! DEFINITION. Metering a swath report: row, debit, draw, reservation, and what is handed on (R50, R54 to R58). -/

namespace Sys2Proof.Machine

set_option Elab.async false

open Sys2Proof

/-- The row a temperature gives: floor((T − 100) / 20), clamped to 0..23 (R50). -/
def rowOfTemperature (t : Int) : Fin 24 := ⟨min ((t - 100) / 20).toNat 23, by omega⟩

/-- The row of a metered report (R50). -/
def InkMeter.rowFor (m : InkMeter) (t : Int) : Fin 24 :=
  if m.manualOn then m.manualRow
  else if t = Config.invalidTemperature then m.lastRow.getD 12
  else rowOfTemperature t

/-- The raw volume of a channel's drop counts, cpL (R55, step 1). -/
def rawVolume (row : DropRow) (d : DropCounts) : Nat :=
  d.small * row.small + d.medium * row.medium + d.large * row.large

/-- The trimmed total of a channel, in 1/4096 cpL (R55, step 2). -/
def trimmedTotal (row : DropRow) (d : DropCounts) (trim residue : Nat) : Nat := rawVolume row d * trim + residue

/-- The debit, whole nanolitres (R55, step 3). -/
def debitOf (total : Nat) : Nat := total / Config.unitsPerNl

/-- The new residue (R55, step 3). -/
def residueOf (total : Nat) : Nat := total % Config.unitsPerNl

/-- The result of drawing from a parcel queue (R57): what is left, the cost of the parts drawn, the price of the last
parcel removed, the price of the last parcel drawn, and what could not be drawn. -/
structure Drawn where
  parcels : List Parcel
  cost : Nat
  removed : Option Nat
  last : Option Nat
  excess : Nat
  deriving DecidableEq, Repr

/-- A volume is drawn, oldest parcel first (R57). -/
def drawFrom : Nat → List Parcel → Drawn
  | n, [] => ⟨[], 0, none, none, n⟩
  | n, p :: ps =>
    if n = 0 then ⟨p :: ps, 0, none, none, 0⟩
    else if n < p.volume then ⟨{ p with volume := p.volume - n } :: ps, n * p.price, none, some p.price, 0⟩
    else
      let d := drawFrom (n - p.volume) ps
      { d with
        cost := p.volume * p.price + d.cost
        removed := some (d.removed.getD p.price)
        last := some (d.last.getD p.price) }

/-- A channel after a draw of n; its refill's own parcel, the last, is gone when the queue is empty (R35, R57). -/
def Channel.afterDraw (ch : Channel) (n : Nat) : Channel :=
  let d := drawFrom n ch.parcels
  { ch with
    parcels := d.parcels
    level := ch.level - (n - d.excess)
    lastPrice := d.removed.getD ch.lastPrice
    job := ch.job.map fun j => { j with parcelIn := j.parcelIn && !d.parcels.isEmpty } }

/-- What a draw of n adds to the cost numerator, its overdrawn excess priced at the last parcel drawn or else the last
removed price (R57). -/
def Channel.drawCost (ch : Channel) (n : Nat) : Nat :=
  let d := drawFrom n ch.parcels
  d.cost + d.excess * d.last.getD ch.lastPrice

/-- A draw of n overdraws the channel (R57). -/
def Channel.overdrawn (ch : Channel) (n : Nat) : Bool := decide (0 < (drawFrom n ch.parcels).excess)

/-- The print's record after a debit on a channel (R55, R57, R58). -/
def chargePrint (c : Chan) (ch : Channel) (debit : Nat) (p : PrintRecord) : PrintRecord :=
  { p with
    consumed := p.consumed.set c (p.consumed[c] + debit)
    numerators := p.numerators.set c (p.numerators[c] + ch.drawCost debit)
    overdraw := p.overdraw || ch.overdrawn debit
    reservation := p.reservation.set c (p.reservation[c] - min p.reservation[c] debit) }

/-- One channel of a metered report: residue, draw, charge (R55 to R58). -/
def meterChannel (h : Nat) (row : DropRow) (report : SwathReport) (s : State) (c : Chan) : State :=
  let total := trimmedTotal row report.drops[c] s.meter.trims[c] s.meter.residues[c]
  let debit := debitOf total
  let ch := s.channel c
  let s := { s with meter := { s.meter with residues := s.meter.residues.set c (residueOf total) } }
  (s.mapPrint h (chargePrint c ch debit)).mapChannel c fun ch => ch.afterDraw debit

/-- The swath timing of a metered report (R16). -/
def swathTiming (now : Nat) (p : PrintRecord) : PrintRecord :=
  { p with
    swathCount := rise16 p.swathCount
    largestGap := max p.largestGap (now - p.lastSwath.getD now)
    lastSwath := some now }

/-- What a draw on a channel hands on, given the state before the draws (R58). -/
def handOnDraw (before : State) (s : State) (c : Chan) : State :=
  if (s.channel c).level < (before.channel c).level then
    let s := reconsider c (updateIndication c s)
    let s := if (s.channel c).level < Config.printFloor then resumeRefill c s else s
    if s.usable c < before.usable c then repair c s else s
  else s

/-- A swath report is metered for the ACTIVE print (R16, R50, R55 to R58). -/
def meterSwath (p : PrintRecord) (report : SwathReport) (s : State) : State :=
  let row := s.meter.rowFor report.temperature
  let values := s.meter.dropTable[row]
  let s := s.mapPrint p.handle (swathTiming s.clock.now)
  let s := { s with meter := { s.meter with lastRow := some row, lastSequence := some report.sequence } }
  let drawn := channelList.foldl (meterChannel p.handle values report) s
  releaseChecks (channelList.foldl (handOnDraw s) drawn)

end Sys2Proof.Machine
end

