-- ==== Sys2Proof/Machine/Cost.lean ====
section
/-! DEFINITION. Pricing at close, the cost record, the cost log, and the close of a print (chapter 8, R20, R140, R157);
the reconciliation of an open-print marker (R155, R204). -/

namespace Sys2Proof.Machine

set_option Elab.async false

open Sys2Proof

/-- A channel's ink cost from its numerator (R152). -/
def inkCost (numerator : Nat) : Nat := min Config.max64 ((numerator + 500000) / 1000000)

/-- The media cost of a snapshot (R153). -/
def mediaCost (m : MediaSnapshot) : Nat := (m.width * m.spanLength * m.price + 5000000) / 10000000

/-- The twelve ink costs (R152). -/
def inkCosts (numerators : PerChan Nat) : PerChan Nat := Vector.ofFn fun c : Chan => inkCost numerators[c]

/-- The total of a close (R153). -/
def totalCost (numerators : PerChan Nat) (m : MediaSnapshot) : Nat :=
  min Config.max64 ((inkCosts numerators).toList.sum + mediaCost m)

/-- The sequence number after a given one: it wraps from FFFFFFFFh to 1 (R156). -/
def nextSequence (n : Nat) : Nat := if n = Config.size32 - 1 then 1 else n + 1

/-- The media snapshot of a print at its close. A print that reaches close has one (R151). -/
def PrintRecord.snapshotAtClose (p : PrintRecord) : MediaSnapshot := p.snapshot.getD ⟨p.mediaType, 0, p.spanLength, 0⟩

/-- The cost record of a closing print (R154, R155). -/
def costRecordOf (p : PrintRecord) (outcome : PrintOutcome) (sequence : Nat) (cutNone : Bool) : CostRecord :=
  let m := p.snapshotAtClose
  { sequence := sequence, handle := p.handle, jobTag := p.jobTag, kind := p.kind, editionId := p.editionId
    outcome := outcome, number := p.number, verdict := p.verdict, largestDE := p.largestDE
    mediaType := m.mediaType, width := m.width, spanLength := m.spanLength
    consumed := p.consumed, inkCosts := inkCosts p.numerators, mediaCost := mediaCost m
    total := totalCost p.numerators m, largestGap := p.largestGap / 1000
    overdraw := p.overdraw, estimated := false, cutNone := cutNone }

/-- An edition takes the total of a closed print (R140). -/
def Edition.addCost (e : Edition) (outcome : PrintOutcome) (total : Nat) : Edition :=
  match outcome with
  | .accepted => { e with acceptedCost := add64 e.acceptedCost total }
  | .rejected | .spoiled => { e with wasteCost := add64 e.wasteCost total }

/-- A record joins the log with the next sequence number, which the counter takes (R156, R157). -/
def appendRecord (r : CostRecord) (s : State) : State :=
  { s with cost := { s.cost with log := s.cost.log ++ [r], sequence := r.sequence } }

/-- A print closes: SPOILED if it has no outcome, priced, recorded, its edition charged, out of the queue; the release
checks run, and then the notice reports the close (R20, R157). -/
def closePrint (h : Nat) (cutNone : Bool) (s : State) : State :=
  match s.findPrint h with
  | none => s
  | some p =>
    let s := if p.inFlight then s.countSpoil p else s
    let outcome := p.outcome.getD .spoiled
    let r := costRecordOf p outcome (nextSequence s.cost.sequence) cutNone
    let s := (appendRecord r s).mapEditionOf p fun e => e.addCost outcome r.total
    raise (.print h p.jobTag p.kind (.closed (some outcome) p.number r.sequence)) (releaseChecks (s.dropPrint h))

/-! ## The open-print marker at power-on (R204) -/

/-- The amount the reconciliation draws from a channel. -/
def OpenMarker.amount (m : OpenMarker) (ch : Channel) (c : Chan) : Nat := min m.reservation[c] ch.level

/-- The record of a reconciliation (R155). -/
def reconcileRecord (m : OpenMarker) (channels : PerChan Channel) (sequence : Nat) : CostRecord :=
  let numerators : PerChan Nat := Vector.ofFn fun c : Chan => (channels[c]).drawCost (m.amount channels[c] c)
  { sequence := sequence, handle := m.handle, jobTag := m.jobTag, kind := m.kind, editionId := m.editionId
    outcome := .spoiled, number := none, verdict := none, largestDE := none
    mediaType := m.snapshot.mediaType, width := m.snapshot.width, spanLength := m.snapshot.spanLength
    consumed := Vector.ofFn fun c : Chan => m.amount channels[c] c
    inkCosts := inkCosts numerators, mediaCost := mediaCost m.snapshot, total := totalCost numerators m.snapshot
    largestGap := 0, overdraw := false, estimated := true, cutNone := true }

/-- The open-print marker is reconciled (R204). -/
def reconcileMarker (s : State) : State :=
  match s.store.openPrint with
  | none => s
  | some m =>
    let r := reconcileRecord m s.ink.channels (nextSequence s.cost.sequence)
    let s := { s with ink := { s.ink with
      channels := Vector.ofFn fun c : Chan => (s.channel c).afterDraw (m.amount (s.channel c) c) } }
    let s := appendRecord r s
    let s := match m.editionId with
      | some id => s.mapEdition id fun e => { e.addCost .spoiled r.total with spoiled := rise16 e.spoiled }
      | none => s
    setOpenMarker none (saveInk s)

end Sys2Proof.Machine
end

