-- ==== Sys2Proof/Machine/Judge.lean ====
section
/-! DEFINITION. Judging a strip: validity, effective tolerances, squared differences, the verdict and the largest ΔE
(R120 to R124). -/

namespace Sys2Proof.Machine

set_option Elab.async false

open Sys2Proof

/-- A reading is valid (R120). -/
def Reading.isValid (r : Reading) : Bool :=
  decide (0 ≤ r.valL ∧ r.valL ≤ 10000) && decide (-12800 ≤ r.valA ∧ r.valA ≤ 12700) &&
  decide (-12800 ≤ r.valB ∧ r.valB ≤ 12700)

/-- A value held between two bounds. -/
def clamp (low high : Nat) (v : Int) : Nat := max low (min high v.toNat)

/-- The effective warn tolerance (R121). -/
def warnEffective (warn : Nat) (adjustment : Int) : Nat := clamp 50 2550 (warn + adjustment)

/-- The effective fail tolerance, never below the effective warn tolerance (R121). -/
def failEffective (warn fail : Nat) (adjustment : Int) : Nat :=
  clamp (warnEffective warn adjustment) 2550 (fail + adjustment)

/-- The squared colour difference (R122). -/
def squaredDifference (p : Patch) (r : Reading) : Nat :=
  (r.valL - p.targetL).natAbs ^ 2 + (r.valA - p.targetA).natAbs ^ 2 + (r.valB - p.targetB).natAbs ^ 2

/-- A patch with its reading, judged. -/
structure Judged where
  patch : Patch
  entry : JudgedReading
  deriving DecidableEq, Repr

/-- One reading against its patch (R120, R122). -/
def judgeReading (warn fail : Nat) (p : Patch) (r : Reading) : Judged :=
  let d := squaredDifference p r
  if Reading.isValid r then ⟨p, ⟨r, true, some d, decide (warn ^ 2 < d), decide (fail ^ 2 < d)⟩⟩
  else ⟨p, ⟨r, false, none, false, false⟩⟩

/-- Every reading against the patch in the same place (R120). -/
def judgeReadings (warn fail : Nat) (patches : List Patch) (readings : List Reading) : List Judged :=
  List.zipWith (judgeReading warn fail) patches readings

/-- The count of invalid readings. -/
def invalidCount (js : List Judged) : Nat := (js.filter fun j => !j.entry.valid).length

/-- The count of valid patches over warn. -/
def overWarnCount (js : List Judged) : Nat := (js.filter fun j => j.entry.overWarn).length

/-- The count of valid patches over fail. -/
def overFailCount (js : List Judged) : Nat := (js.filter fun j => j.entry.overFail).length

/-- The base verdict from the valid patches (R123). -/
def baseVerdict (js : List Judged) : Verdict :=
  if 0 < overFailCount js ∨ js.any (fun j => j.patch.critical && j.entry.overWarn) ∨ 4 < overWarnCount js then .fail
  else if 0 < overWarnCount js then .warn
  else .pass

/-- The gap downgrades a PASS (R123). -/
def gapIsLong (gap : Nat) : Bool := decide (Config.longGap < gap)

/-- The verdict of a completed scan (R120, R123). -/
def scanVerdict (stale : Bool) (gap : Nat) (js : List Judged) : Verdict :=
  if 3 ≤ invalidCount js then .unchecked
  else
    match baseVerdict js with
    | .pass => if stale || gapIsLong gap then .warn else .pass
    | v => v

/-- The PASS was downgraded: the scan was judged, and its base verdict was PASS (R123). -/
def passBase (js : List Judged) : Bool := decide (invalidCount js < 3) && baseVerdict js == .pass

/-- Bits of the integer square root, from bit k - 1 down. -/
def sqrtBits : Nat → Nat → Nat → Nat
  | 0, _, r => r
  | k + 1, n, r => if (r + 2 ^ k) * (r + 2 ^ k) ≤ n then sqrtBits k n (r + 2 ^ k) else sqrtBits k n r

/-- The integer square root, rounded down (R124). -/
def squareRoot (n : Nat) : Nat := sqrtBits (n.log2 / 2 + 1) n 0

/-- The largest squared difference among the valid patches, with the first place that gives it, from a place on. -/
def largestFrom : Nat → List Judged → Option (Nat × Nat)
  | _, [] => none
  | k, j :: js =>
    match j.entry.squared, largestFrom (k + 1) js with
    | none, rest => rest
    | some d, none => some (d, k)
    | some d, some (d', k') => if d < d' then some (d', k') else some (d, k)

/-- The largest ΔE and the patch that gave it, counted from 1 in strip order (R124). -/
def largestDifference (js : List Judged) : Option (Nat × Nat) :=
  (largestFrom 1 js).map fun x => (squareRoot x.1, x.2)

end Sys2Proof.Machine
end

