-- ==== Sys2Proof/Machine/Active.lean ====
section
/-! DEFINITION. Becoming ACTIVE and leaving it, spoils, and the transport's faults (R14, R17, R18, R82, R167, R171). -/

namespace Sys2Proof.Machine

set_option Elab.async false

open Sys2Proof

/-- The outstanding feed ask is answered REFUSED(STOPPED) and dropped (R169). -/
def dropFeedAsk (s : State) : State :=
  match s.engine.feedAsk with
  | none => s
  | some a => (s.tell (.refused a.tag .stopped)).mapEngine fun e => { e with feedAsk := none }

/-- The engine's hold on the transport ends; its feed in progress is told to end (R17, R77, R80). -/
def releaseHold (m : MediaTransport) : MediaTransport :=
  { m with
    hold := .none
    state := if m.state = .heldByEngine then .idle else m.state
    feed := m.feed.map fun f => if f.owner = .engine then { f with ending := true } else f }

/-- No sequence number is remembered (R17, R168). -/
def forgetSequence (s : State) : State := { s with meter := { s.meter with lastSequence := none } }

/-- The flush wait runs from now (R21). -/
def startFlushWait (s : State) : State :=
  { s with queue := { s.queue with flushDeadline := some (s.clock.now + Config.flushWait) } }

/-- The print is ACTIVE no more: its record as `f` says with no reservation, the engine idle with its silence timer
stopped, the marker cleared and the engine's hold ended (R17, R201). -/
def endActive (h : Nat) (f : PrintRecord → PrintRecord) (s : State) : State :=
  let s := s.mapPrint h fun p => { f p with reservation := noReservation }
  let s := s.mapEngine fun e => { e with state := .idle, silence := none }
  (setOpenMarker none s).mapMedia releaseHold

/-- The ACTIVE print leaves ACTIVE as `f` says, with every effect R17 gives but the HALT line's, which its caller
works out. -/
def leaveActive (h : Nat) (f : PrintRecord → PrintRecord) (news : PrintNews) (s : State) : State :=
  let s := saveRoll (saveInk (forgetSequence (dropFeedAsk (endActive h f s))))
  releaseChecks (printNotice h news (startFlushWait (inkPrintEnds s)))

/-- PRINT_STOP goes to the engine, and its handle is the stopped handle (R171). -/
def printStop (h : Nat) (s : State) : State :=
  (s.tell (.printStop h)).mapEngine fun e => { e with stopped := some h }

/-- The ACTIVE print is spoiled (R18); PRINT_STOP is sent at every spoil by the part, before the REFUSED(STOPPED) of an
outstanding feed ask (R169, R171; log entry 38). -/
def spoilActive (p : PrintRecord) (stop : Bool) (s : State) : State :=
  let s := if stop then printStop p.handle s else s
  let s := unlist (fun e => e.kind == .scan && e.handle == some p.handle) s
  leaveActive p.handle (fun q => { q with state := .travel, outcome := some .spoiled }) .travel (s.countSpoil p)

/-- Imaging is over: TRAVEL for a print with a strip, else SEPARATE, ACCEPTED (R17). -/
def finishImaging (p : PrintRecord) (s : State) : State :=
  if p.refSet.isSome then leaveActive p.handle (fun q => { q with state := .travel }) .travel s
  else leaveActive p.handle (fun q => { q with state := .separate, outcome := some .accepted })
    (.separate (some .accepted) none) s

/-- The open-print marker of a print (R201). -/
def openMarkerOf (p : PrintRecord) : OpenMarker :=
  ⟨p.handle, p.jobTag, p.kind, p.editionId, p.reservation, p.snapshotAtClose⟩

/-- The print becomes ACTIVE: marker, hold, state, PRINT_GO and PRINTING (R14, R167, R201). The tag is that of an
ENGINE_READY not yet answered, else 0 (R164, R166). -/
def becomeActive (p : PrintRecord) (s : State) : State :=
  let s := setOpenMarker (some (openMarkerOf p)) s
  let s := s.mapMedia fun m => { m with hold := .engine p.handle, state := .heldByEngine }
  let now := s.clock.now
  let s := (s.mapPrint p.handle fun q => { q with state := .active, lastSwath := some now }).unready p.handle
  let s := s.tell (.printGo (s.engine.readyTag.getD 0) p.handle p.imageWidth p.spanLength p.mediaType)
  silenceStart (s.mapEngine fun e =>
    { e with state := .printing, stopped := none, feedAsk := none, readyTag := none })

/-- Positioning is complete: the READY print becomes ACTIVE, refills are suspended, and a notice reports it (R14,
R42). -/
def completePositioning (h : Nat) (s : State) : State :=
  match s.findPrint h with
  | none => s
  | some p =>
    if p.state = .ready then printNotice h (.active p.span) (inkPrintBegins (forgetSequence (becomeActive p s)))
    else s

/-- The start of the print being positioned is abandoned (R82). The roll it asks for counts among the READY prints'
again, so the release checks run (R6, R7). -/
def abandonPositioned (s : State) : State :=
  match s.positioned with
  | some h => releaseChecks (abandonStart h s)
  | none => s

/-- The effects of a fault on the prints: a start is abandoned, an ACTIVE print is spoiled (R82). -/
def faultOwners (s : State) : State :=
  let s := abandonPositioned s
  match s.active with
  | some p => spoilActive p true s
  | none => s

/-- The transport becomes FAULTED: cause, notice, end of the feed, its owner's loss (R82). A fault while FAULTED
changes the cause alone, which happens at a failed cut (R96). HALT is worked out before the ACTIVE print is spoiled, so a
HALT_ON of this fault carries the engine state PRINTING (R176; log entry 38). -/
def faultTransport (cause : FaultCause) (s : State) : State :=
  if s.media.state = .faulted then haltUpdate (s.mapMedia fun m => { m with cause := some cause })
  else
    let owner := s.media.feed.map (·.owner)
    let s := s.mapMedia fun m =>
      { m with state := .faulted, cause := some cause, feed := none, movement := none }
    haltUpdate (faultOwners (haltUpdate (rollNotice (.fault cause owner) s)))

end Sys2Proof.Machine
end

