-- ==== Sys2Proof/Machine/Verdict.lean ====
section
/-! DEFINITION. The spectro conversation, the issuing of a verdict, and what it does to an edition and a reference set
(R106 to R119, R125, R127, R136 to R138). -/

namespace Sys2Proof.Machine

set_option Elab.async false

open Sys2Proof

/-! ## Commands to the spectro head (R112 to R118) -/

/-- The tag after the last spectro tag: it wraps from 255 to 1. -/
def nextSpectroTag (last : Nat) : Nat := if last = 255 then 1 else last + 1

/-- CALIBRATE is sent with a new tag (R114, R115). -/
def sendCalibrate (requested : Bool) (s : State) : State :=
  let tag := nextSpectroTag s.colour.lastTag
  (s.command (.calibrate tag)).mapColour fun u =>
    { u with lastTag := tag
             spectro := .calibrating tag s.clock.now (s.clock.now + Config.calibrationTimeout) requested }

/-- The conditions of an automatic calibration (R114). -/
def ColourUnit.autoDue (u : ColourUnit) : Bool :=
  u.stale && u.spectro == .idle && u.pending.isNone && u.retryDeadline.isNone

/-- An automatic calibration is sent where its conditions hold (R114). -/
def autoCalibrate (s : State) : State := if s.colour.autoDue then sendCalibrate false s else s

/-- SCAN is sent with a new tag, recording whether calibration is stale (R118). -/
def sendScan (job : ScanJob) (s : State) : State :=
  let tag := nextSpectroTag s.colour.lastTag
  (s.command (.scan tag job.handle job.patches.length)).mapColour fun u =>
    { u with lastTag := tag
             spectro := .scanning tag s.clock.now (s.clock.now + Config.scanTimeout) u.stale job false }

/-- After a command has ended: a pending scan is sent, else the automatic conditions are tested (R116 to R118). -/
def afterCommand (s : State) : State :=
  match s.colour.pending with
  | some job => sendScan job (s.mapColour fun u => { u with pending := none })
  | none => autoCalibrate s

/-- A CALIBRATION notice with the record as the event left it (R126). -/
def calibrationNotice (news : CalibrationNews) (requested : Bool) (s : State) : State :=
  raise (.calibration news requested s.colour.calValid s.colour.scanCount) s

/-- A calibration failed: invalid, and the retry timer starts (R114, R116). -/
def failCalibration (news : CalibrationNews) (requested : Bool) (s : State) : State :=
  afterCommand (calibrationNotice news requested (s.mapColour fun u =>
    { u with calValid := false, spectro := .idle, retryDeadline := some (s.clock.now + Config.retryTime) }))

/-- A calibration completed (R113, R116). -/
def completeCalibration (requested : Bool) (s : State) : State :=
  afterCommand (calibrationNotice .done requested (s.mapColour fun u =>
    { u with calValid := true, scanCount := 0, spectro := .idle, retryDeadline := none }))

/-! ## An edition at a verdict (R136 to R138) -/

/-- The number a print accepted now receives (R136). -/
def Edition.nextNumber (e : Edition) : PrintKind → Option Nat
  | .edition => some (e.accepted + 1)
  | .artistProof => some (e.apAccepted + 1)
  | .proof => none

/-- The counts after a verdict (R129, R136). -/
def Edition.counted (e : Edition) (k : PrintKind) (o : PrintOutcome) : Edition :=
  let e := e.mapInFlight k (· - 1)
  match o, k with
  | .accepted, .edition => { e with accepted := e.accepted + 1 }
  | .accepted, .artistProof => { e with apAccepted := e.apAccepted + 1 }
  | .accepted, .proof => e
  | .rejected, _ => { e with rejected := rise16 e.rejected }
  | .spoiled, _ => { e with spoiled := rise16 e.spoiled }

/-- The runs after a verdict (R137). -/
def Edition.ran (e : Edition) : Verdict → Edition
  | .pass => { e with warnRun := 0, failRun := 0 }
  | .warn => { e with warnRun := rise8 e.warnRun }
  | .fail => { e with warnRun := rise8 e.warnRun, failRun := rise8 e.failRun }
  | .unchecked => e

/-- The edition's state is settled after a verdict (R137): COMPLETE when both series are full, HOLD at a run's
threshold; only an OPEN or HOLD edition completes (R138). -/
def Edition.settled (e : Edition) : Edition :=
  if (e.state = .opened ∨ e.state = .hold) ∧ e.accepted = e.limit ∧ e.apAccepted = e.apLimit then
    { e with state := .complete, holdCause := none }
  else if e.state = .opened ∧ 2 ≤ e.failRun then { e with state := .hold, holdCause := some .failRun }
  else if e.state = .opened ∧ 3 ≤ e.warnRun then { e with state := .hold, holdCause := some .warnRun }
  else e

/-- The entry after a verdict (R136, R137). -/
def Edition.judged (e : Edition) (k : PrintKind) (v : Verdict) (o : PrintOutcome) : Edition :=
  ((e.counted k o).ran v).settled

/-- The number a print receives with an outcome, from its edition as it stands (R136). -/
def numberFor (p : PrintRecord) (o : PrintOutcome) (s : State) : Option Nat :=
  match p.editionId.bind s.findEdition with
  | some e => if o = .accepted then e.nextNumber p.kind else none
  | none => none

/-- The effects of the HOLD or COMPLETE that a verdict has brought an edition to (R125 step 2, R134, R138). The entry given
is the one before the verdict. -/
def verdictEffects (e : Edition) (s : State) : State :=
  match s.findEdition e.id with
  | none => s
  | some after =>
    if after.state = e.state then s
    else if after.state = .complete then haltUpdate (editionNotice Edition.completeNews e.id s)
    else haltUpdate (holdEffects e.id s)

/-! ## Reference sets (R109) -/

/-- A set's protection mode becomes the given one. -/
def setRefMode (index : Nat) (mode : RefMode) (s : State) : State :=
  if h : index < 32 then
    s.mapColour fun u => { u with sets := u.sets.set index { u.sets[index] with mode := mode } }
  else s

/-- The set an index names; an index above 31 names an empty one. -/
def State.refSet (s : State) (index : Nat) : RefSet := (s.colour.sets[index]?).getD .blank

/-- The first acceptance of an edition's print makes its OPEN set FIXED (R109, R125 step 3). -/
def fixSet (p : PrintRecord) (o : PrintOutcome) (s : State) : State :=
  match p.kind, p.refSet with
  | .proof, _ => s
  | _, none => s
  | _, some i => if o = .accepted ∧ (s.refSet i).mode = .opened then setRefMode i .fixed s else s

/-- The FIXED sets that no tied edition with an accepted print refers to (R109). -/
def freedSet (table : List Edition) (i : Fin 32) (r : RefSet) : Bool :=
  r.mode == .fixed && !table.any fun e => e.holdsSet i.val

/-- Every FIXED set is examined, and those no longer tied return to OPEN (R109). -/
def releaseSets (s : State) : State :=
  s.mapColour fun u =>
    { u with sets := Vector.ofFn fun i : Fin 32 =>
        if freedSet s.registry.table i u.sets[i] then { u.sets[i] with mode := .opened } else u.sets[i] }

/-! ## Issuing a verdict (R125) -/

/-- What a scan's end, or a verdict without a scan, hands to the issuing. -/
structure ScanResult where
  verdict : Verdict
  largest : Option (Nat × Nat)
  overWarn : Nat
  overFail : Nat
  invalid : Nat
  stalePass : Bool
  longGapPass : Bool
  cause : Option UncheckedCause
  record : LastScan
  deriving DecidableEq, Repr

/-- The outcome a verdict gives under a policy (R125). -/
def outcomeOf (policy : UncheckedPolicy) : Verdict → PrintOutcome
  | .pass | .warn => .accepted
  | .fail => .rejected
  | .unchecked =>
    match policy with
    | .accept => .accepted
    | .reject => .rejected

/-- The verdict fail latch is set by a FAIL (R175). -/
def latchFail (h : Nat) (v : Verdict) (s : State) : State :=
  if v = .fail then
    s.mapEngine fun e => { e with latch := some ⟨h, match e.latch with | some l => rise8 l.count | none => 1⟩ }
  else s

/-- The body of a VERDICT notice (R126). -/
def verdictNews (p : PrintRecord) (index : Nat) (o : PrintOutcome) (number : Option Nat) (r : ScanResult) :
    VerdictNews :=
  { handle := p.handle, jobTag := p.jobTag, kind := p.kind, editionId := p.editionId, refSet := index
    verdict := r.verdict, outcome := o, number := number, largestDE := r.largest
    overWarn := r.overWarn, overFail := r.overFail, invalid := r.invalid
    stalePass := r.stalePass, longGapPass := r.longGapPass, cause := r.cause }

/-- The print and its edition take the verdict: verdict, largest ΔE, outcome, number and SEPARATE in the record, counts,
runs and state in the entry (R19, R125 steps 1 and 2, R136, R137). The PRINT notice of SEPARATE follows at step 6. -/
def recordVerdict (p : PrintRecord) (o : PrintOutcome) (r : ScanResult) (s : State) : State :=
  let number := numberFor p o s
  (s.mapEditionOf p fun e => e.judged p.kind r.verdict o).mapPrint p.handle fun q =>
    { q with verdict := some r.verdict, largestDE := r.largest.map (·.1), outcome := some o, number := number
             state := .separate }

/-- The registry's part of a verdict, with the effects of HOLD or COMPLETE (R125 steps 1 and 2). -/
def editionVerdict (p : PrintRecord) (o : PrintOutcome) (r : ScanResult) (s : State) : State :=
  match p.editionId.bind s.findEdition with
  | some e => verdictEffects e (recordVerdict p o r s)
  | none => recordVerdict p o r s

/-- A verdict is issued on a print in SCAN: steps 1 to 6 of R125, and the SCAN entry leaves the list. The transport is
told by the caller (step 7). -/
def issueVerdict (h index : Nat) (r : ScanResult) (s : State) : State :=
  match s.findPrint h with
  | none => s
  | some p =>
    if p.state = .scan then
      let o := outcomeOf s.control.policy r.verdict
      let number := numberFor p o s
      let s := latchFail h r.verdict (fixSet p o (editionVerdict p o r s))
      let s := s.mapColour fun u => { u with lastScan := some { r.record with verdict := some r.verdict } }
      let s := haltUpdate (raise (.verdict (verdictNews p index o number r)) s)
      let s := printNotice h (.separate (some o) number) s
      releaseChecks (unlist (fun e => e.kind == .scan && e.handle == some h) s)
    else s

/-! ## The end of a scan (R117, R118, R127) -/

/-- The last scan record of a job, without readings or verdict, and so with no invalid reading counted. -/
def scanRecord (job : ScanJob) (tag : Nat) (stale : Bool) (ending : ScanEnd) : LastScan :=
  { handle := job.handle, refSet := job.refSet, tag := some tag, stale := some stale
    warnEff := some (warnEffective job.warn job.adjustment)
    failEff := some (failEffective job.warn job.fail job.adjustment)
    outcome := some ending, readings := [], invalid := 0, verdict := none }

/-- A verdict UNCHECKED with no readings, for a cause. -/
def uncheckedResult (cause : UncheckedCause) (record : LastScan) : ScanResult :=
  ⟨.unchecked, none, 0, 0, 0, false, false, some cause, record⟩

/-- The verdict on an empty set: a record with no tag and no readings (R117, R127; log entry 19). -/
def emptySetResult (h index : Nat) : ScanResult :=
  uncheckedResult .emptySet ⟨h, index, none, none, none, none, none, [], 0, none⟩

/-- The result of a completed scan (R120 to R124). -/
def completedResult (job : ScanJob) (tag : Nat) (stale : Bool) (gap : Nat) (readings : List Reading) : ScanResult :=
  let js := judgeReadings (warnEffective job.warn job.adjustment) (failEffective job.warn job.fail job.adjustment)
    job.patches readings
  let v := scanVerdict stale gap js
  { verdict := v, largest := largestDifference js
    overWarn := overWarnCount js, overFail := overFailCount js, invalid := invalidCount js
    stalePass := passBase js && stale, longGapPass := passBase js && gapIsLong gap
    cause := if v = .unchecked then some .invalidReadings else none
    record := { scanRecord job tag stale .completed with readings := js.map (·.entry), invalid := invalidCount js } }

/-- The scan in flight ends with a result, or, when the RESET request has closed its print, with the record DISCARDED
and nothing else (R118, R119). -/
def endScan (job : ScanJob) (tag : Nat) (stale discarded : Bool) (r : ScanResult) (s : State) : State :=
  let s := s.mapColour fun u => { u with spectro := .idle }
  if discarded then s.mapColour fun u => { u with lastScan := some (scanRecord job tag stale .discarded) }
  else issueVerdict job.handle job.refSet r s

/-- What a scan copies when its entry is handed over (R117). -/
def scanJobOf (p : PrintRecord) (index : Nat) (s : State) : ScanJob :=
  let r := s.refSet index
  { handle := p.handle, refSet := index, patches := r.patches, warn := r.warn, fail := r.fail
    adjustment := ((s.cost.media[p.mediaType]?).map (·.adjustment)).getD 0 }

/-- A SCAN entry is handed to the Colour Check Unit: its print goes to SCAN; an empty set gives its verdict at once, a
free head its SCAN, and a busy head makes it the pending scan (R19, R117). -/
def beginScan (p : PrintRecord) (s : State) : State :=
  let s := printNotice p.handle .scan (s.mapPrint p.handle fun q => { q with state := .scan })
  let index := p.refSet.getD 0
  let job := scanJobOf p index s
  if job.patches = [] then issueVerdict p.handle index (emptySetResult p.handle index) s
  else if s.colour.spectro = .idle then sendScan job s
  else s.mapColour fun u => { u with pending := some job }

/-- A SCAN entry is reached. Its print is in TRAVEL with no outcome (R19); an entry without such a print, which the list
never holds (R18, R76), is dropped. -/
def handScan (h : Nat) (s : State) : State :=
  let dropped := unlist (fun e => e.kind == .scan && e.handle == some h) s
  match s.findPrint h with
  | none => dropped
  | some p => if p.state = .travel ∧ p.outcome = none then beginScan p s else dropped

end Sys2Proof.Machine
end

