-- ==== Sys2Proof/Machine/Transport.lean ====
section
/-! DEFINITION. The cutter's sequence, stops and feeds, the end of the roll, starts and the flush advance, and what
every event that may move the transport ends with (chapters 4 and 5, R11 to R14, R21). -/

namespace Sys2Proof.Machine

set_option Elab.async false

open Sys2Proof

/-! ## The cutter (R89 to R96) -/

/-- The chute of an entry's cut (R90). -/
def chuteFor (s : State) (e : Station) : Chute :=
  match e.kind with
  | .cutServer => e.chute.getD .waste
  | .cutTrail =>
    match (e.handle.bind s.findPrint).bind (·.outcome) with
    | some .accepted => .basket
    | _ => .waste
  | _ => .waste

/-- The blade is fired (R92). -/
def fireBlade (s : State) : State :=
  s.mapCutter fun k =>
    { k with state := .cutting, fire := true, leftRest := false, settleDeadline := none
             bladeDeadline := some (s.clock.now + Config.bladeLimit) }

/-- A sequence fails at a stage: latch, CUT notice, transport fault; the entry stays listed (R96). -/
def failCut (stage : CutStage) (s : State) : State :=
  match s.cutter.current with
  | none => s
  | some e =>
    let s := s.mapCutter fun k =>
      { k with state := .faulted, chute := none, latch := some ⟨stage, e⟩, fire := false
               settleDeadline := none, bladeDeadline := none }
    faultTransport .cut (cutNotice (.fault stage e.kind e.position e.handle e.chute) s)

/-- The flap-settled input has been read, or has asserted; its level when it is next read is free anew (log entry 33). -/
def flapRead (s : State) : State := s.mapCutter fun k => { k with flapReads := k.flapReads + 1 }

/-- The chute stage: over at once on a flap found settled on the chosen side, else the select line is driven and the
settle limit starts; the flap is then not settled there before the input asserts (R91; log entries 16 and 33). -/
def chuteStage (chute : Chute) (s : State) : State :=
  if s.cutter.flap = chute ∧ s.flapLevel then fireBlade (flapRead s)
  else
    let s := (flapRead s).mapCutter fun k =>
      { k with state := .settingChute, flap := chute, settleDeadline := some (s.clock.now + Config.settleLimit) }
    { s with inputs := { s.inputs with flapSettled := false } }

/-- A spoiled print in TRAVEL goes to SEPARATE as its trailing cut begins (R90). -/
def separateSpoiled (e : Station) (s : State) : State :=
  match e.kind, e.handle.bind s.findPrint with
  | .cutTrail, some p =>
    if p.state = .travel ∧ p.outcome = some .spoiled then
      printNotice p.handle (.separate p.outcome p.number) (s.mapPrint p.handle fun q => { q with state := .separate })
    else s
  | _, _ => s

/-- A cut sequence begins (R90). -/
def beginCut (e : Station) (s : State) : State :=
  let chute := chuteFor s e
  let s := separateSpoiled e (s.mapCutter fun k =>
    { k with state := .settingChute, current := some e, chute := some chute })
  if s.inputs.bladeHome then chuteStage chute s else failCut .home s

/-! ## Movements and the ends of feeds (R78, R80, R81) -/

/-- The movement timeout for a distance, in ms (R78). -/
def movementTime (distance : Nat) : Nat := ceilDiv (2 * distance) 3 + 2000

/-- A movement is made to a target (R78, step 2). -/
def startMovement (target : Nat) (s : State) : State :=
  s.mapMedia fun m =>
    { m with
      state := .moving
      movement := some ⟨m.roll.head, target, s.clock.now, s.clock.now + movementTime (target - m.roll.head)⟩ }

/-- The state at rest with no feed: HELD_BY_ENGINE under the engine's hold, else IDLE (R77). -/
def restState (m : MediaTransport) : TransportState :=
  match m.hold with
  | .engine _ => .heldByEngine
  | _ => .idle

/-- The feed or the stop is over, and the transport at rest (R77). -/
def rest (s : State) : State := s.mapMedia fun m => { m with state := restState m, feed := none, movement := none }

/-- FEED_DONE answers the outstanding feed ask, and the silence timer starts again (R80, R169, R172). -/
def feedDone (distance : Nat) (s : State) : State :=
  match s.engine.feedAsk with
  | none => s
  | some a =>
    silenceStart ((s.tell (.feedDone a.tag distance a.clipped)).mapEngine fun e => { e with feedAsk := none })

/-- A feed ends and its owner is told (R78, step 4). -/
def endFeed (f : Feed) (s : State) : State :=
  let distance := s.media.roll.head - f.start
  let s := rest s
  match f.owner with
  | .engine => feedDone distance s
  | .positioning =>
    match s.positioned with
    | some h => completePositioning h s
    | none => s
  | .flush => s
  | .move => rollNotice (.moveDone distance) s

/-- The first entry listed at the trigger where the transport stands; a SCAN stands before a cut (R74, R79). -/
def State.entryHere (s : State) : Option Station :=
  s.media.stations.find? fun e => e.trigger == s.media.roll.head

/-- The end of the leg toward a target: the smallest listed trigger at or above H and at or below it, else the target
itself (R78, step 1). -/
def legEnd (m : MediaTransport) (target : Nat) : Nat :=
  match m.stations.find? fun e => decide (m.roll.head ≤ e.trigger ∧ e.trigger ≤ target) with
  | some e => e.trigger
  | none => target

/-- The transport, at rest at H with a feed in progress or a stop running, goes on: it waits for work that runs, hands
over the next entry, moves on or ends (R78, R79). The fuel is above the number of entries (log entry 27). -/
def advanceLoop : Nat → State → State
  | 0, s => s
  | n + 1, s =>
    if s.media.state = .faulted then s
    else
      let stopped := s.mapMedia fun m => { m with state := .stoppedAtStation }
      if s.workRunning then stopped
      else
        match s.entryHere with
        | some e =>
          match e.kind, e.handle with
          | .scan, some h => advanceLoop n (handScan h stopped)
          | .scan, none => advanceLoop n (unlist (fun x => x == e) stopped)
          | _, _ => beginCut e stopped
        | none =>
          match s.media.feed with
          | none => rest s
          | some f =>
            if f.ending ∨ f.target ≤ s.media.roll.head then endFeed f s
            else startMovement (legEnd s.media f.target) s

/-- The transport goes on (R78, R79). -/
def advance (s : State) : State := advanceLoop (s.media.stations.length + 2) s

/-- A feed begins (R78). -/
def beginFeed (owner : FeedOwner) (target : Nat) (s : State) : State :=
  advance (s.mapMedia fun m => { m with feed := some ⟨owner, target, m.roll.head, false⟩ })

/-- A stop without a feed owner: an entry at H, with the transport IDLE, is run at once (R79). -/
def stopIfHere (s : State) : State :=
  if s.media.state = .idle ∧ s.entryHere.isSome then advance s else s

/-- After the RESET request has emptied the list, a stop with no work left is over (R78). -/
def endIdleStop (s : State) : State := if s.media.state = .stoppedAtStation then advance s else s

/-! ## A completed cut (R93) -/

/-- The cut that a trailing entry makes closes its print: the entry is still listed, and its print in the queue, its
imaging over. After the RESET request neither is (R99). -/
def closesPrint (s : State) (e : Station) : Option Nat :=
  if e.kind == .cutTrail && s.media.stations.contains e then
    ((e.handle.bind s.findPrint).filter PrintRecord.imaged).map (·.handle)
  else none

/-- The cut completes (R93, R94). The piece's length is the cut line less the last-cut position, 0 where a base newer than
the sequence puts the line at or below it (log entry 30). The release checks follow the change of the roll record, with
the close of a print or without one (R7, R20). -/
def completeCut (s : State) : State :=
  match s.cutter.current with
  | none => s
  | some e =>
    let start := s.media.roll.lastCut
    let closes := closesPrint s e
    let chute := s.cutter.chute.getD .waste
    let s := saveRoll (s.mapRoll fun r => { r with lastCut := e.position })
    let s := unlist (fun x => decide (x = e)) s
    let s := s.mapCutter fun k =>
      { k with state := .idle, current := none, chute := none, fire := false, leftRest := false
               bladeDeadline := none }
    let span := (closes.bind s.findPrint).map (·.spanLength)
    let s := cutNotice (.done e.kind e.position e.handle chute start (e.position - start) closes.isSome span) s
    let s := match closes with
      | some h => closePrint h false s
      | none => releaseChecks s
    advance s

/-! ## Arrival, tail-out and the end of the roll (R78, R84, R85) -/

/-- The tail has passed the cutter: each print awaiting tail-out closes in submission order, and a notice reports
it (R85). -/
def tailOut (s : State) : State :=
  let hs := (s.queue.prints.filter (·.awaitingTailOut)).map (·.handle)
  rollNotice (.tailOut hs) (hs.foldl (fun t h => closePrint h true t) s)

/-- The driver signals arrival (R78, step 3). -/
def arrive (s : State) : State :=
  match s.media.movement with
  | none => s
  | some m =>
    let s := s.mapMedia fun x => { x with movement := none, roll := { x.roll with head := m.target } }
    let s := releaseChecks s
    let s := if s.media.rollState = .ended ∧ s.media.roll.head = s.media.roll.tail + Config.cutterOffset then tailOut s
      else s
    advance s

/-- No target lies beyond the tail-out position (R78, R84 step 3; log entry 24). -/
def limitTargets (m : MediaTransport) : MediaTransport :=
  let last := m.roll.tail + Config.cutterOffset
  { m with
    movement := m.movement.map fun v => { v with target := min v.target last }
    feed := m.feed.map fun f => { f with target := min f.target last } }

/-- The entry is a trailing cut of the print (R84). -/
def trailsPrint (p : PrintRecord) (e : Station) : Bool := e.kind == .cutTrail && e.handle == some p.handle

/-- A print in TRAVEL, SCAN or SEPARATE whose trailing cut is among the removed entries awaits tail-out (R84 step 2). -/
def markTailOut (gone : List Station) (p : PrintRecord) : PrintRecord :=
  if p.imaged && gone.any (fun e => trailsPrint p e) then { p with awaitingTailOut := true } else p

/-- The entries at or beyond the new L leave the list; their server cuts are reported, and the prints whose trailing
cut went await tail-out (R84 step 2, R103). -/
def dropBeyond (s : State) : State :=
  let tail := s.media.roll.tail
  let gone := s.media.stations.filter fun e => decide (tail ≤ e.position)
  let s := unlist (fun e => decide (tail ≤ e.position)) s
  let s := reportDropped .rollEnd (gone.filter fun e => e.kind == .cutServer) s
  { s with queue := { s.queue with prints := s.queue.prints.map (markTailOut gone) } }

/-- An ACTIVE print whose trailing cut would lie at or beyond the new L is spoiled (R84 step 1). -/
def spoilAtRollEnd (s : State) : State :=
  match s.active with
  | none => s
  | some p =>
    match p.span with
    | none => s
    | some sp => if s.media.roll.tail ≤ sp.stop + 30 then spoilActive p true s else s

/-- The roll ends under a VERIFIED or UNVERIFIED roll (R84). -/
def rollEnds (s : State) : State :=
  let tail := s.headPoint + Config.endSensorOffset
  let s := s.mapMedia fun m => { m with rollState := .ended, roll := { m.roll with tail := tail } }
  let s := (dropBeyond (spoilAtRollEnd s)).mapMedia limitTargets
  let s := releaseChecks (rollRecheck s)
  let s := saveRoll (s.mapMedia fun m => { m with lowFlag := .sent })
  haltUpdate (rollNotice .ended s)

/-! ## Starts (R12, R13) -/

/-- The span a start would allot now (R12). -/
def spanFor (s : State) (p : PrintRecord) : Span :=
  let start := max s.media.roll.alloc s.media.roll.head
  ⟨start, start + p.spanLength⟩

/-- The span fits the roll (R12). -/
def spanFits (s : State) (sp : Span) : Bool := decide (sp.stop + 30 ≤ s.media.roll.tail)

/-- The entries a start lists (R13, R75). -/
def startEntries (s : State) (p : PrintRecord) (sp : Span) : List Station :=
  (if s.media.roll.lastCut < sp.start - 30 ∧ !s.cutListed (sp.start - 30) then
    [stationAt .cutLead (sp.start - 30) (some p.handle) none] else []) ++
  (if p.refSet.isSome then [stationAt .scan (sp.stop - 125) (some p.handle) none] else []) ++
  [stationAt .cutTrail (sp.stop + 30) (some p.handle) none]

/-- A server cut that the span covers (R13, R102). -/
def coveredBy (sp : Span) (e : Station) : Bool :=
  e.kind == .cutServer && decide (sp.start ≤ e.position ∧ e.position ≤ sp.stop)

/-- A server cut that the trailing cut replaces (R75, R102). -/
def replacedBy (sp : Span) (e : Station) : Bool := e.kind == .cutServer && e.position == sp.stop + 30

/-- The list has room for the start (R75). -/
def startHasRoom (s : State) (p : PrintRecord) (sp : Span) : Bool :=
  let kept := s.media.stations.filter fun e => !coveredBy sp e && !replacedBy sp e
  decide (kept.length + (startEntries s p sp).length ≤ Config.stationRoom)

/-- The media snapshot of a start (R151). -/
def snapshotFor (s : State) (p : PrintRecord) : MediaSnapshot :=
  ⟨p.mediaType, s.media.roll.width, p.spanLength, ((s.cost.media[p.mediaType]?).map (·.price)).getD 0⟩

/-- A start is committed and positioning begins (R12 to R14). The notices follow the changes in their order: A first,
then the server cuts that leave the list (R86, R88, R102). -/
def commitStart (p : PrintRecord) (sp : Span) (s : State) : State :=
  let snapshot := snapshotFor s p
  let entries := startEntries s p sp
  let covered := s.media.stations.filter (coveredBy sp)
  let replaced := s.media.stations.filter (replacedBy sp)
  let s := s.mapPrint p.handle fun q => { q with span := some sp, snapshot := some snapshot }
  let s := s.mapMedia fun m => { m with hold := .positioning p.handle, roll := { m.roll with alloc := sp.stop + 60 } }
  let s := unlist (fun e => coveredBy sp e || replacedBy sp e) s
  let s := entries.foldl (fun t e => listStation e t) s
  let s := { s with queue := { s.queue with flushDue := false } }
  let s := reportDropped .replaced replaced (reportDropped .covered covered (rollLowCheck s))
  let s := releaseChecks (printNotice p.handle .startCommitted s)
  beginFeed .positioning sp.start s

/-! ## The flush advance (R21) -/

/-- Where the next flush leg goes: the smallest listed trigger, or the tail-out position with no entry listed. -/
def flushTarget (m : MediaTransport) : Nat :=
  match m.stations.head? with
  | some e => e.trigger
  | none => m.roll.tail + Config.cutterOffset

/-- A due flush can begin a leg. -/
def State.flushPossible (s : State) : Bool :=
  s.queue.flushDue && s.transportFree && s.noPrintHolds && s.awaitsAnything &&
  (decide (s.media.roll.head < flushTarget s.media) || s.entryHere.isSome)

/-- A flush with nothing left to bring ends. -/
def endFlush (s : State) : State :=
  if s.queue.flushDue && !s.awaitsAnything then { s with queue := { s.queue with flushDue := false } } else s

/-! ## What every event ends with -/

/-- A start is tried on the oldest READY print alone: committed, returned to WAITING when it cannot fit the roll, or not
made for want of room in the station list (R11, R12). -/
def startStep (s : State) : Option State :=
  if s.startPossible then
    match s.readyPrints.head? with
    | none => none
    | some p =>
      let sp := spanFor s p
      if spanFits s sp then (if startHasRoom s p sp then some (commitStart p sp s) else none)
      else some (returnToWaiting p.handle .media s)
  else none

/-- A due flush begins its next leg where it can (R21). -/
def flushStep (s : State) : Option State :=
  if s.flushPossible then some (beginFeed .flush (flushTarget s.media) s) else none

/-- What can begin now begins: a start first, and a flush leg where no start is made. The fuel is above what eight
prints and sixteen entries can call for (R11, R21; log entry 27). -/
def settleLoop : Nat → State → State
  | 0, s => haltUpdate s
  | n + 1, s =>
    let s := haltUpdate s
    match startStep s with
    | some t => settleLoop n t
    | none =>
      match flushStep s with
      | some t => settleLoop n t
      | none => endFlush s

/-- What can begin now begins (log entry 8). -/
def settle (s : State) : State := settleLoop 64 s

/-- The end of an event that may move the transport, a print or a condition: what can begin begins, and the panel
follows. -/
def finish (s : State) : State := refreshPanel (settle s)

end Sys2Proof.Machine
end

