-- ==== Sys2Proof/Machine/ColourRequests.lean ====
section
/-! DEFINITION. REFERENCE_LOAD, REFERENCE_SEAL, REFERENCE_QUERY, CALIBRATE and COLOUR_QUERY (chapter 6). -/

namespace Sys2Proof.Machine

set_option Elab.async false

open Sys2Proof

/-- A reference set is written whole (R107). -/
def writeSet (i : Fin 32) (r : RefSet) (s : State) : State := s.mapColour fun u => { u with sets := u.sets.set i r }

/-- REFERENCE_LOAD (R107). -/
def referenceLoadRequest (tag index count : Nat) (patches : List Patch) (warn fail : Nat) (s : State) : State :=
  match boundedOf 32 index with
  | none => reply tag .range 0x28 .none s
  | some i =>
    if !referenceInRange count patches warn fail then reply tag .range 0x28 .none s
    else if (s.colour.sets[i]).mode ≠ .opened then reply tag .isProtected 0x28 .none s
    else reply tag .ok 0x28 (.refLoaded index count .opened) (writeSet i ⟨patches, warn, fail, .opened⟩ s)

def execReferenceLoad (tag index count : Nat) (patches : List Patch) (warn fail : Nat) (s : State) : Result :=
  .next (request tag 0x28 .studio (referenceLoadRequest tag index count patches warn fail) s)

/-- REFERENCE_SEAL (R108). -/
def referenceSealRequest (tag index : Nat) (s : State) : State :=
  match boundedOf 32 index with
  | none => reply tag .range 0x29 .none s
  | some i =>
    let r := s.colour.sets[i]
    if r.patches = [] ∨ r.mode = .sealed then reply tag .state 0x29 .none s
    else reply tag .ok 0x29 (.refMode index .sealed) (writeSet i { r with mode := .sealed } s)

def execReferenceSeal (tag index : Nat) (s : State) : Result :=
  .next (request tag 0x29 .studio (referenceSealRequest tag index) s)

/-- The reply of REFERENCE_QUERY: an empty set has no tolerances (R106, R110). -/
def refReply (index : Nat) (r : RefSet) : ReplyFields :=
  .refSet index r.mode r.patches (if r.patches = [] then none else some (r.warn, r.fail))

/-- REFERENCE_QUERY (R110). -/
def referenceQueryRequest (tag index : Nat) (s : State) : State :=
  match boundedOf 32 index with
  | none => reply tag .range 0x2A .none s
  | some i => reply tag .ok 0x2A (refReply index s.colour.sets[i]) s

def execReferenceQuery (tag index : Nat) (s : State) : Result :=
  .next (request tag 0x2A .operator (referenceQueryRequest tag index) s)

/-- CALIBRATE (R115). -/
def calibrateRequest (tag : Nat) (s : State) : State :=
  if s.colour.spectro ≠ .idle ∨ s.colour.pending.isSome then reply tag .busy 0x2B .none s
  else
    let s := sendCalibrate true (s.mapColour fun u => { u with retryDeadline := none })
    reply tag .ok 0x2B (.spectroTag s.colour.lastTag) s

def execCalibrate (tag : Nat) (s : State) : Result := .next (request tag 0x2B .operator (calibrateRequest tag) s)

/-- When the command in flight was sent (R112). -/
def Spectro.began : Spectro → Option Nat
  | .idle => none
  | .calibrating _ t _ _ => some t
  | .scanning _ t _ _ _ _ => some t

/-- The reply of COLOUR_QUERY (R127). -/
def colourReport (s : State) : ColourReport :=
  { valid := s.colour.calValid, scanCount := s.colour.scanCount, stale := s.colour.stale
    spectro := s.colour.spectro, run := s.colour.spectro.began.map fun t => s.clock.now - t
    pendingHandle := s.colour.pending.map (·.handle)
    retryLeft := s.colour.retryDeadline.map fun t => t - s.clock.now
    lastTag := s.colour.lastTag, policy := s.control.policy, lastScan := s.colour.lastScan }

/-- COLOUR_QUERY (R127). -/
def execColourQuery (tag : Nat) (s : State) : Result :=
  .next (request tag 0x2C .operator (fun s => reply tag .ok 0x2C (.colour (colourReport s)) s) s)

end Sys2Proof.Machine
end

