-- ==== Sys2Proof/Machine/ControlRequests.lean ====
section
/-! DEFINITION. The requests of the control link that its own interface answers: access, identity, day, settings and the
verdict latch (chapter 10, R175). -/

namespace Sys2Proof.Machine

set_option Elab.async false

open Sys2Proof

/-- ACCESS (R187). -/
def accessRequest (tag level password : Nat) (s : State) : State :=
  let become (l : AccessLevel) (s : State) : State :=
    reply tag .ok 0x01 (.level l) (s.mapControl fun k => { k with level := l })
  let compare (l : AccessLevel) (stored : Nat) : State :=
    if password = stored then become l s
    else reply tag .denied 0x01 .none (s.mapControl fun k => { k with level := .operator })
  match levelOf level with
  | none => reply tag .range 0x01 .none s
  | some .operator => become .operator s
  | some .studio => compare .studio s.control.studioPassword
  | some .service => compare .service s.control.servicePassword

def execAccess (tag level password : Nat) (s : State) : Result :=
  .next (request tag 0x01 .operator (accessRequest tag level password) s)

/-- PASSWORD_SET makes its access test itself, after its range test (R182, R187). -/
def passwordRequest (tag level password : Nat) (s : State) : State :=
  match levelOf level with
  | some .studio =>
    if levelAllows s.control.level .studio then
      reply tag .ok 0x02 .none (s.mapControl fun k => { k with studioPassword := password })
    else reply tag .access 0x02 .none s
  | some .service =>
    if levelAllows s.control.level .service then
      reply tag .ok 0x02 .none (s.mapControl fun k => { k with servicePassword := password })
    else reply tag .access 0x02 .none s
  | _ => reply tag .range 0x02 .none s

def execPasswordSet (tag level password : Nat) (s : State) : Result := .next (passwordRequest tag level password s)

/-- The reply of IDENT (R193, R194). -/
def identReport (s : State) : IdentReport :=
  { partCode := Config.partCode, revision := Config.revision
    controlFaults := s.links.control.faults, engineFaults := s.links.engine.faults
    spectroFaults := s.links.spectro.faults, editions := s.registry.table.length
    closedIds := s.registry.closedIds.length, costRecords := s.cost.log.length
    memoryEntries := s.ink.memory.length
    setsInUse := (s.colour.sets.toList.filter fun r => !r.patches.isEmpty).length }

/-- The three fault counters at 0 (R194). -/
def clearFaultCounters (s : State) : State :=
  { s with links :=
    { control := { s.links.control with faults := 0 }
      engine := { s.links.engine with faults := 0 }
      spectro := { s.links.spectro with faults := 0 } } }

/-- IDENT (R194). -/
def execIdent (tag : Nat) (clear : Bool) (s : State) : Result :=
  .next (request tag 0x03 .operator (fun s =>
    reply tag .ok 0x03 (.ident (identReport s)) (if clear then clearFaultCounters s else s)) s)

/-- DATE (R195). -/
def execDate (tag day : Nat) (s : State) : Result :=
  .next (request tag 0x04 .operator (fun s =>
    reply tag .ok 0x04 (.day s.clock.day day)
      { s with clock := { s.clock with day := some day, dayDeadline := some (s.clock.now + Config.dayTime) } }) s)

/-- A SETTING_SET request: RANGE for a value outside its set, else the write, its effects and the reply (R188). -/
def settingRequest {α : Type} (tag : Nat) (value : Option α) (write : α → State → State)
    (now : α → SettingNow) (s : State) : State :=
  request tag 0x05 .studio (fun s =>
    match value with
    | none => reply tag .range 0x05 .none s
    | some v => reply tag .ok 0x05 (.setting (now v)) (write v s)) s

/-- SETTING_SET INK_MARGIN (R8). -/
def execSetInkMargin (tag : Nat) (value : BitVec 32) (s : State) : Result :=
  .next (settingRequest tag (inkMarginOf value)
    (fun m s => finish (releaseChecks (s.mapControl fun k => { k with inkMargin := m }))) .inkMargin s)

/-- SETTING_SET UNCHECKED_POLICY (R125, R188). -/
def execSetUncheckedPolicy (tag : Nat) (value : BitVec 32) (s : State) : Result :=
  .next (settingRequest tag (policyOf value)
    (fun p s => s.mapControl fun k => { k with policy := p }) .uncheckedPolicy s)

/-- A notice kind's mask is written; a cleared mask flushes what is pending (R186). -/
def writeMask (kind : NoticeKind) (mask : Bool) (s : State) : State :=
  let s := s.mapNotice kind fun n => { n with mask := mask }
  if mask then s else flushKind false kind s

/-- SETTING_SET NOTICE_MASK (R185, R186). -/
def execSetNoticeMask (tag : Nat) (value : BitVec 32) (s : State) : Result :=
  .next (settingRequest tag (noticeMaskOf value)
    (fun v s => refreshPanel (writeMask v.1 v.2 s)) (fun v => .noticeMask v.1 v.2) s)

/-- SETTING_SET LAMP (R190). -/
def execSetLamp (tag : Nat) (value : BitVec 32) (s : State) : Result :=
  .next (settingRequest tag (lampOf value)
    (fun v s => refreshPanel (s.mapControl fun k => { k with lamps := k.lamps.set v.1 v.2 }))
    (fun v => .lamp v.1 v.2) s)

/-- SETTING_SET HALT_ROUTING (R173). -/
def execSetHaltRouting (tag : Nat) (value : BitVec 32) (s : State) : Result :=
  .next (settingRequest tag (haltRoutingOf value)
    (fun r s => finish (haltUpdate (s.mapEngine fun e => { e with haltRouting := r }))) .haltRouting s)

/-- SETTING_SET ATTN_ROUTING (R192). -/
def execSetAttnRouting (tag : Nat) (value : BitVec 32) (s : State) : Result :=
  .next (settingRequest tag (attnRoutingOf value)
    (fun r s => refreshPanel (s.mapControl fun k => { k with attnRouting := r })) .attnRouting s)

/-- The reply of SETTINGS_QUERY (R189). -/
def settingsReport (s : State) : SettingsReport :=
  { level := s.control.level, inkMargin := s.control.inkMargin, policy := s.control.policy
    lamps := s.control.lamps, haltRouting := s.engine.haltRouting, attnRouting := s.control.attnRouting
    notices := (s.control.notices.toList.take 11).map fun n => (n.mask, n.pending, n.deferred)
    sendCount := s.control.sendList.length, receiveCount := s.control.receiveList.length
    lit := s.control.lit, attn := s.control.attn, holding := s.conditions }

/-- SETTINGS_QUERY (R189). -/
def execSettingsQuery (tag : Nat) (s : State) : Result :=
  .next (request tag 0x06 .operator (fun s => reply tag .ok 0x06 (.settings (settingsReport s)) s) s)

/-- CLEAR_FAULT naming the verdict latch (R175). -/
def clearLatchRequest (tag : Nat) (s : State) : State :=
  match s.engine.latch with
  | none => reply tag .state 0x09 .none s
  | some l => reply tag .ok 0x09 (.latch l.count l.handle) (finish (s.mapEngine fun e => { e with latch := none }))

def execClearFaultVerdictLatch (tag : Nat) (s : State) : Result :=
  .next (request tag 0x09 .operator (clearLatchRequest tag) s)

/-- A taken control frame whose kind is no request kind (R182). -/
def execUnknownKind (tag kind : Nat) (s : State) : Result := .next (reply tag .unknownKind kind .none s)

/-- The send list has sent its n oldest frames; a fall to 16 or fewer flushes the deferred kinds (R183). -/
def drainSendList (n : Nat) (s : State) : State :=
  let s' := s.mapControl fun k => { k with sendList := k.sendList.drop n }
  if 16 < s.control.sendList.length ∧ s'.control.sendList.length ≤ 16 then flushDeferred s' else s'

/-- Frames leave the send list (R183). -/
def execSendListDrain (sent : Nat) (s : State) : Result := .next (refreshPanel (drainSendList sent s))

/-- A boundary of the blink timebase: the next whole 125 ms (R191; log entry 3). -/
def execBlinkPeriod (s : State) : Result :=
  .next (refreshPanel (timeTo ((s.clock.now / 125 + 1) * 125) s))

/-- The day timer expires (R195). -/
def dayTimer (s : State) : State :=
  match s.clock.dayDeadline with
  | none => s
  | some d =>
    let s := timeTo d s
    { s with clock := { s.clock with
        day := s.clock.day.map fun n => (n + 1) % 65536
        dayDeadline := some (s.clock.now + Config.dayTime) } }

def execDayTimerExpiry (s : State) : Result := .next (refreshPanel (dayTimer s))

end Sys2Proof.Machine
end

