-- ==== Sys2Proof/Machine/CostRequests.lean ====
section
/-! DEFINITION. The requests of the cost unit, and ENGINE_QUERY (chapter 8, R177). -/

namespace Sys2Proof.Machine

set_option Elab.async false

open Sys2Proof

/-- TARIFF_SET (R148). -/
def tariffRequest (tag lot price : Nat) (s : State) : State :=
  match boundedOf 32 lot with
  | none => reply tag .range 0x38 .none s
  | some i =>
    if 100000000 < price then reply tag .range 0x38 .none s
    else reply tag .ok 0x38 (.tariff lot price s.cost.tariff[i])
      { s with cost := { s.cost with tariff := s.cost.tariff.set i price } }

def execTariffSet (tag lot price : Nat) (s : State) : Result :=
  .next (request tag 0x38 .studio (tariffRequest tag lot price) s)

/-- MEDIA_SET (R150). -/
def mediaSetRequest (tag mediaType : Nat) (name : List Byte) (price : Nat) (adjustment : Int) (s : State) : State :=
  match boundedOf 16 mediaType with
  | none => reply tag .range 0x39 .none s
  | some i =>
    if mediaInRange name price adjustment then
      let entry : MediaEntry := ⟨name, price, adjustment⟩
      reply tag .ok 0x39 (.mediaEntry mediaType entry)
        { s with cost := { s.cost with media := s.cost.media.set i entry } }
    else reply tag .range 0x39 .none s

def execMediaSet (tag mediaType : Nat) (name : List Byte) (price : Nat) (adjustment : Int) (s : State) : Result :=
  .next (request tag 0x39 .studio (mediaSetRequest tag mediaType name price adjustment) s)

/-- COST_READ (R160). -/
def costReadRequest (tag : Nat) (s : State) : State :=
  match s.cost.log.head? with
  | none => reply tag .empty 0x3A .none s
  | some r => reply tag .ok 0x3A (.costRecord r s.cost.log.length s.freeSpace) s

def execCostRead (tag : Nat) (s : State) : Result := .next (request tag 0x3A .operator (costReadRequest tag) s)

/-- The oldest record leaves the log; the flag and the release checks follow (R161, R162). -/
def dropRecord (s : State) : State :=
  releaseChecks (earlyFullCheck { s with cost := { s.cost with log := s.cost.log.drop 1 } })

/-- COST_DROP (R161). The reply gives the records and the space that the drop itself leaves (log entry 8). -/
def costDropRequest (tag sequence : Nat) (s : State) : State :=
  match s.cost.log.head? with
  | none => reply tag .empty 0x3B .noRecord s
  | some r =>
    if sequence = r.sequence then
      let s := dropRecord s
      reply tag .ok 0x3B (.costDropped sequence s.cost.log.length s.freeSpace) (finish s)
    else reply tag .mismatch 0x3B (.oldestSequence r.sequence) s

def execCostDrop (tag sequence : Nat) (s : State) : Result :=
  .next (request tag 0x3B .operator (costDropRequest tag sequence) s)

/-- PRICE_QUERY TARIFF (R163). -/
def execPriceQueryTariff (tag : Nat) (s : State) : Result :=
  .next (request tag 0x3C .operator (fun s => reply tag .ok 0x3C (.tariffTable s.cost.tariff) s) s)

/-- PRICE_QUERY MEDIA (R163). -/
def execPriceQueryMedia (tag : Nat) (s : State) : Result :=
  .next (request tag 0x3C .operator (fun s => reply tag .ok 0x3C (.mediaTable s.cost.media) s) s)

/-- The reply of PRICE_QUERY LOG (R163). -/
def logReport (s : State) : LogReport :=
  { records := s.cost.log.length, live := s.liveCount, free := s.freeSpace, earlyFull := s.cost.earlyFull
    sequence := s.cost.sequence, oldest := s.cost.log.head?.map (·.sequence)
    youngest := s.cost.log.getLast?.map (·.sequence) }

/-- PRICE_QUERY LOG (R163). -/
def execPriceQueryLog (tag : Nat) (s : State) : Result :=
  .next (request tag 0x3C .operator (fun s => reply tag .ok 0x3C (.log (logReport s)) s) s)

/-- The reply of ENGINE_QUERY (R177): the eight conditions that HALT can follow, without ROLL_LOW. -/
def engineReport (s : State) : EngineReport :=
  { state := s.engine.state, active := s.active.map (·.handle)
    feedAsk := s.engine.feedAsk.map fun a => (a.tag, a.distance)
    silenceLeft := s.engine.silence.map fun t => t - s.clock.now
    stopped := s.engine.stopped, lost := s.engine.lost, latch := s.engine.latch, halt := s.engine.halt
    haltRouting := s.engine.haltRouting, holding := { s.conditions with rollLow := false }
    faults := s.links.engine.faults }

/-- ENGINE_QUERY (R177). -/
def execEngineQuery (tag : Nat) (s : State) : Result :=
  .next (request tag 0x3D .operator (fun s => reply tag .ok 0x3D (.engine (engineReport s)) s) s)

end Sys2Proof.Machine
end

