-- ==== Sys2Proof/Machine/CutRequests.lean ====
section
/-! DEFINITION. CUT_AT, CUT_NOW and CUT_QUERY (chapter 5.4 and 5.6). -/

namespace Sys2Proof.Machine

set_option Elab.async false

open Sys2Proof

/-- A movement under way holds the trigger (R75, R100). -/
def State.movementHolds (s : State) (trigger : Nat) : Bool :=
  s.media.movement.any fun m => decide (m.start ≤ trigger ∧ trigger ≤ m.target)

/-- The list is at its 16 entries (R74). -/
def State.listFull (s : State) : Bool := decide (Config.stationRoom ≤ s.media.stations.length)

/-- A server cut is listed; an entry at H runs at once where the transport is IDLE (R79, R100, R101). -/
def listServerCut (position : Nat) (chute : Chute) (s : State) : State :=
  finish (stopIfHere (listStation (stationAt .cutServer position none (some chute)) s))

/-- The roll has no cut to make at the position: at or below the last cut, or at or beyond L (R100, R101). -/
def State.beyondCut (s : State) (position : Nat) : Bool :=
  decide (position ≤ s.media.roll.lastCut) || decide (s.media.roll.tail ≤ position)

/-- CUT_AT (R100). The position of a cut under way is held by that cut, listed or not (R98). -/
def cutAtRequest (tag position chute : Nat) (s : State) : State :=
  let trigger := triggerOf .cutServer position
  match chuteOf chute with
  | none => reply tag .range 0x24 .none s
  | some c =>
    if s.media.rollState = .none then reply tag .state 0x24 .none s
    else if trigger < s.media.roll.head ∨ s.beyondCut position then reply tag .range 0x24 .none s
    else if s.protectedAt position then reply tag .isProtected 0x24 .none s
    else if s.cutListed position || s.cutRunsAt position then reply tag .exists_ 0x24 .none s
    else if s.movementHolds trigger then reply tag .busy 0x24 .none s
    else if s.listFull then reply tag .full 0x24 .none s
    else reply tag .ok 0x24 (.trigger trigger) (listServerCut position c s)

def execCutAt (tag position chute : Nat) (s : State) : Result :=
  .next (request tag 0x24 .operator (cutAtRequest tag position chute) s)

/-- The point under the cutter line (R68). H is never below 1800 while there is a roll (log entry 30). -/
def State.cutterPoint (s : State) : Nat := s.media.roll.head - Config.cutterOffset

/-- CUT_NOW (R101). -/
def cutNowRequest (tag chute : Nat) (s : State) : State :=
  let position := s.cutterPoint
  match chuteOf chute with
  | none => reply tag .range 0x25 .none s
  | some c =>
    if s.media.rollState = .none ∨ s.media.state = .faulted then reply tag .state 0x25 .none s
    else if s.media.hold ≠ .none then reply tag .held 0x25 .none s
    else if s.feeding ∨ s.ownerlessStop then reply tag .busy 0x25 .none s
    else if s.beyondCut position then reply tag .range 0x25 .none s
    else if s.protectedAt position then reply tag .isProtected 0x25 .none s
    else if s.cutListed position then reply tag .exists_ 0x25 .none s
    else if s.listFull then reply tag .full 0x25 .none s
    else reply tag .ok 0x25 (.cutPosition position) (listServerCut position c s)

def execCutNow (tag chute : Nat) (s : State) : Result :=
  .next (request tag 0x25 .operator (cutNowRequest tag chute) s)

/-- The reply of CUT_QUERY (R105). -/
def cutReport (s : State) : CutReport :=
  { state := s.cutter.state
    current := s.cutter.current.map fun e => (e, s.cutter.chute)
    flap := s.cutter.flap, flapSettled := s.flapLevel, bladeHome := s.inputs.bladeHome
    latch := s.cutter.latch
    lastCut := if s.media.rollState = .none then none else some s.media.roll.lastCut
    cuts := s.media.stations.filter fun e => e.kind.isCut }

/-- CUT_QUERY (R105). -/
def execCutQuery (tag : Nat) (s : State) : Result :=
  .next (request tag 0x26 .operator (fun s => reply tag .ok 0x26 (.cut (cutReport s)) s) s)

end Sys2Proof.Machine
end

