-- ==== Sys2Proof/Machine/EditionRequests.lean ====
section
/-! DEFINITION. The requests of the edition registry (chapter 7). -/

namespace Sys2Proof.Machine

set_option Elab.async false

open Sys2Proof

/-- A new edition entry (R131). -/
def newEdition (id : Nat) (title : List Byte) (limit apLimit refSet mediaType day : Nat) : Edition :=
  { id := id, title := title, limit := limit, apLimit := apLimit, refSet := refSet, mediaType := mediaType
    state := .opened, accepted := 0, apAccepted := 0, rejected := 0, spoiled := 0, inFlight := 0, apInFlight := 0
    warnRun := 0, failRun := 0, holdCause := none, acceptedCost := 0, wasteCost := 0, openedDay := day
    closedDay := none }

/-- The set may be used by a new edition of the media type (R132). -/
def mayShareSet (table : List Edition) (mode : RefMode) (refSet mediaType : Nat) : Bool :=
  mode == .sealed || table.all fun e => !(e.tied && e.refSet == refSet) || e.mediaType == mediaType

/-- An entry joins the table (R131). -/
def addEdition (e : Edition) (s : State) : State :=
  { s with registry := { s.registry with table := s.registry.table ++ [e] } }

/-- EDITION_OPEN (R131). -/
def editionOpenRequest (tag id : Nat) (title : List Byte) (limit apLimit refSet mediaType : Nat) (s : State) :
    State :=
  if !editionInRange id title limit apLimit refSet mediaType then reply tag .range 0x30 .none s
  else if (s.findEdition id).isSome then reply tag .exists_ 0x30 .none s
  else if s.registry.closedIds.contains id then reply tag .closedId 0x30 .none s
  else if Config.editionRoom ≤ s.registry.table.length then reply tag .full 0x30 .none s
  else if (s.refSet refSet).patches = [] then reply tag .state 0x30 .none s
  else if !mayShareSet s.registry.table (s.refSet refSet).mode refSet mediaType then
    reply tag .isProtected 0x30 .none s
  else
    let s := addEdition (newEdition id title limit apLimit refSet mediaType (s.clock.day.getD 0)) s
    reply tag .ok 0x30 (.edition id .opened) (finish (editionNotice Edition.openedNews id (releaseChecks s)))

def execEditionOpen (tag id : Nat) (title : List Byte) (limit apLimit refSet mediaType : Nat) (s : State) : Result :=
  .next (request tag 0x30 .studio (editionOpenRequest tag id title limit apLimit refSet mediaType) s)

/-- The state of the entry an id names, as a reply field. -/
def editionStateReply (id : Nat) (s : State) : ReplyFields :=
  match s.findEdition id with
  | some e => .editionState e.state
  | none => .none

/-- EDITION_HOLD (R133, R134). -/
def editionHoldRequest (tag id : Nat) (s : State) : State :=
  match s.findEdition id with
  | none => reply tag .notFound 0x31 .none s
  | some e =>
    if e.state = .opened then
      let s := s.mapEdition id fun x => { x with state := .hold, holdCause := some .request }
      let s := haltUpdate (holdEffects id s)
      reply tag .ok 0x31 (editionStateReply id s) (finish s)
    else reply tag .state 0x31 .none s

def execEditionHold (tag id : Nat) (s : State) : Result :=
  .next (request tag 0x31 .studio (editionHoldRequest tag id) s)

/-- The reply of a resume, from the state its release checks left (R135). -/
def resumedReply (id : Nat) (s : State) : ReplyFields :=
  match s.findEdition id with
  | some e => .editionResumed e.state e.inFlight e.apInFlight
  | none => .none

/-- EDITION_RESUME (R135). -/
def editionResumeRequest (tag id : Nat) (s : State) : State :=
  match s.findEdition id with
  | none => reply tag .notFound 0x32 .none s
  | some e =>
    if e.state = .hold then
      let s := s.mapEdition id fun x => { x with state := .opened, holdCause := none, warnRun := 0, failRun := 0 }
      let s := editionNotice (fun _ => .resumed) id (releaseChecks s)
      reply tag .ok 0x32 (resumedReply id s) (finish s)
    else reply tag .state 0x32 .none s

def execEditionResume (tag id : Nat) (s : State) : Result :=
  .next (request tag 0x32 .studio (editionResumeRequest tag id) s)

/-- The queue holds a record of the edition (R142, R143). -/
def State.editionQueued (s : State) (id : Nat) : Bool := s.queue.prints.any fun p => p.editionId == some id

/-- The id joins the closed-id list as its entry becomes CLOSED (R142, step 1). -/
def closeEdition (id : Nat) (s : State) : State :=
  let day := s.clock.day.getD 0
  let s := s.mapEdition id fun e => { e with state := .closed, holdCause := none, closedDay := some day }
  { s with registry := { s.registry with closedIds := s.registry.closedIds ++ [id] } }

/-- EDITION_CLOSE (R142). The notice of a HALT change follows the EDITION notice (R176). -/
def editionCloseRequest (tag id : Nat) (s : State) : State :=
  match s.findEdition id with
  | none => reply tag .notFound 0x33 .none s
  | some e =>
    if e.state = .closed then reply tag .state 0x33 .none s
    else if s.editionQueued id then reply tag .busy 0x33 .none s
    else if Config.closedRoom ≤ s.registry.closedIds.length then reply tag .full 0x33 .none s
    else
      let s := closeEdition id s
      let count := s.registry.closedIds.length
      let s := haltUpdate (editionNotice Edition.closedNews id (releaseSets s))
      reply tag .ok 0x33 (.editionClosed .closed (s.clock.day.getD 0) count) (finish (releaseChecks s))

def execEditionClose (tag id : Nat) (s : State) : Result :=
  .next (request tag 0x33 .studio (editionCloseRequest tag id) s)

/-- EDITION_ARCHIVE (R143). -/
def editionArchiveRequest (tag id : Nat) (s : State) : State :=
  match s.findEdition id with
  | none => reply tag .notFound 0x34 .none s
  | some e =>
    if e.state ≠ .closed then reply tag .state 0x34 .none s
    else if s.editionQueued id then reply tag .busy 0x34 .none s
    else
      let s := { s with registry := { s.registry with table := s.registry.table.filter fun x => x.id != id } }
      let s := refreshPanel (haltUpdate (raise (.edition e.archivedNews e.counts) s))
      reply tag .ok 0x34 (.editionsLeft s.registry.table.length) s

def execEditionArchive (tag id : Nat) (s : State) : Result :=
  .next (request tag 0x34 .studio (editionArchiveRequest tag id) s)

/-- One line of EDITION_QUERY (R144). -/
def editionLine (e : Edition) : EditionLine := ⟨e.id, e.state, e.accepted, e.apAccepted⟩

/-- A line takes its place by the open rank (R144 "in no fixed order"; log entry 14). -/
def insertLine (l : EditionLine) : List EditionLine → List EditionLine
  | [] => [l]
  | x :: xs => if Config.editionRank l.id ≤ Config.editionRank x.id then l :: x :: xs else x :: insertLine l xs

/-- The lines of EDITION_QUERY (R144). -/
def editionLines (table : List Edition) : List EditionLine := table.foldr (fun e ls => insertLine (editionLine e) ls) []

/-- EDITION_QUERY (R144). -/
def editionQueryReply (tag : Nat) (id : Option Nat) (s : State) : State :=
  match id with
  | none =>
    reply tag .ok 0x35
      (.editionLines (editionLines s.registry.table) s.registry.table.length s.registry.closedIds.length) s
  | some n =>
    match s.findEdition n with
    | none => reply tag .notFound 0x35 .none s
    | some e => reply tag .ok 0x35 (.editionEntry e) s

def execEditionQuery (tag : Nat) (id : Option Nat) (s : State) : Result :=
  .next (request tag 0x35 .operator (editionQueryReply tag id) s)

/-- CLOSED_QUERY (R144). -/
def closedQueryReply (tag start : Nat) (s : State) : State :=
  if 1023 < start then reply tag .range 0x36 .none s
  else
    reply tag .ok 0x36 (.closedIds s.registry.closedIds.length ((s.registry.closedIds.drop start).take 128)) s

def execClosedQuery (tag start : Nat) (s : State) : Result :=
  .next (request tag 0x36 .operator (closedQueryReply tag start) s)

end Sys2Proof.Machine
end

