-- ==== Sys2Proof/Machine/EngineFrames.lean ====
section
/-! DEFINITION. The frames of the engine and the silence timeout (chapter 9). -/

namespace Sys2Proof.Machine

set_option Elab.async false

open Sys2Proof

/-- A frame is taken from the engine: ENGINE_LOST stops holding (R172). Its notices go out before the frame has its own
effects, so with an ENGINE_READY they carry the state before ASKING (R176; log entry 38). -/
def hear (kind : Nat) (s : State) : State :=
  if s.engine.lost then haltUpdate (engineNotice (.heard kind) (s.mapEngine fun e => { e with lost := false }))
  else s

/-- A frame is taken from the engine, and the silence timer starts again where it runs (R172). -/
def hearAndRefresh (kind : Nat) (s : State) : State := silenceRefresh (hear kind s)

/-- The why of a NOTHING, the first that applies (R166). -/
def whyNothing (s : State) : Why :=
  if s.positioned.isSome then .positioning
  else if s.readyPrints = [] then .noPrint
  else if s.engine.halt then .halt
  else if s.media.rollState ≠ .verified then .roll
  else if !s.transportFree then .transport
  else .positioning

/-- An ENGINE_READY that no PRINT_GO has answered is answered NOTHING (R166). -/
def answerReady (s : State) : State :=
  match s.engine.readyTag with
  | none => s
  | some t => (s.tell (.nothing t (whyNothing s))).mapEngine fun e => { e with readyTag := none }

/-- ENGINE_READY (R166). Its start is tried as every event's is, at its end (log entry 8). -/
def readyFrame (tag : Nat) (s : State) : State :=
  let s := hear 0x40 s
  if s.engine.state = .printing then refreshPanel (s.tell (.refused tag .state))
  else
    let s := s.mapEngine fun e => { e with state := .asking, readyTag := some tag }
    refreshPanel (answerReady (settle s))

def execEngineReady (tag : Nat) (s : State) : Result := .next (readyFrame tag s)

/-- The tests that a frame naming a handle meets: the ACTIVE print it names, or the reason it is refused (R168,
R169). -/
def printOf (handle : Nat) (s : State) : Except EngineRefusal PrintRecord :=
  if s.engine.stopped = some handle then .error .stopped
  else if s.engine.state ≠ .printing then .error .state
  else
    match s.active with
    | some p => if p.handle = handle then .ok p else .error .handle
    | none => .error .handle

/-- The frame is refused (R164). -/
def refuseFrame (tag : Nat) (why : EngineRefusal) (s : State) : State := finish (s.tell (.refused tag why))

/-- The frame is answered TAKEN after its effects (R164). -/
def answerTaken (tag : Nat) (s : State) : State := (finish s).tell (.taken tag)

/-- SWATH (R168). -/
def swathFrame (tag : Nat) (report : SwathReport) (s : State) : State :=
  let s := hearAndRefresh 0x41 s
  match printOf report.handle s with
  | .error why => refuseFrame tag why s
  | .ok p =>
    if s.meter.lastSequence = some report.sequence then answerTaken tag s
    else answerTaken tag (meterSwath p report s)

def execSwath (tag : Nat) (report : SwathReport) (s : State) : Result := .next (swathFrame tag report s)

/-- An ENGINE feed begins for the print (R80, R169). The clipped mark is set when H + distance is above the span end, so
an ask of distance 0 with H at the end leaves it clear (log entry 37). -/
def beginEngineFeed (tag handle distance : Nat) (p : PrintRecord) (s : State) : State :=
  let stop := (p.span.map (·.stop)).getD s.media.roll.head
  let wanted := s.media.roll.head + distance
  let s := s.mapEngine fun e =>
    { e with feedAsk := some ⟨tag, handle, distance, decide (stop < wanted)⟩, silence := none }
  beginFeed .engine (min wanted stop) s

/-- FEED_ASK (R169). -/
def feedAskFrame (tag handle distance : Nat) (s : State) : State :=
  let s := hearAndRefresh 0x42 s
  match printOf handle s with
  | .error why => refuseFrame tag why s
  | .ok p =>
    if s.engine.feedAsk.isSome then refuseFrame tag .busy s
    else finish (beginEngineFeed tag handle distance p s)

def execFeedAsk (tag handle distance : Nat) (s : State) : Result := .next (feedAskFrame tag handle distance s)

/-- The engine acknowledges a stopped print: the stopped handle is dropped (R170, R171). -/
def dropStopped (s : State) : State := s.mapEngine fun e => { e with stopped := none }

/-- PRINT_DONE and PRINT_FAIL: the acknowledgement of a stopped print, a refusal, or the effects on the ACTIVE print
(R170). -/
def endingFrame (tag handle : Nat) (effect : PrintRecord → State → State) (s : State) : State :=
  match printOf handle s with
  | .error .stopped => answerTaken tag (dropStopped s)
  | .error why => refuseFrame tag why s
  | .ok p => answerTaken tag (effect p s)

/-- PRINT_DONE (R170). -/
def execPrintDone (tag handle : Nat) (s : State) : Result :=
  .next (endingFrame tag handle finishImaging (hearAndRefresh 0x43 s))

/-- The ACTIVE print failed at the engine (R170, R176). -/
def failPrint (cause : Nat) (p : PrintRecord) (s : State) : State :=
  engineNotice (.fail p.handle cause) (spoilActive p false s)

/-- PRINT_FAIL: a cause outside the five is MALFORMED (R164, R170). -/
def printFailFrame (tag handle cause : Nat) (s : State) : State :=
  let s := hearAndRefresh 0x44 s
  if 5 ≤ cause then refuseFrame tag .malformed s else endingFrame tag handle (failPrint cause) s

def execPrintFail (tag handle cause : Nat) (s : State) : Result := .next (printFailFrame tag handle cause s)

/-- A frame of a kind that is none of the five (R164). -/
def execEngineUnknownKind (tag kind : Nat) (s : State) : Result :=
  .next (refuseFrame tag .unknownKind (hearAndRefresh kind s))

/-- A frame of a known kind whose body is not of its length (R164). -/
def engineMalformed (tag kind : Nat) (s : State) : State := refuseFrame tag .malformed (hearAndRefresh kind s)

/-- The silence timer expires: spoil, PRINT_STOP, ENGINE_LOST, notice LOST (R172, R176). -/
def silenceExpires (deadline : Nat) (s : State) : State :=
  let s := timeTo deadline s
  match s.active with
  | none => finish s
  | some p =>
    let s := spoilActive p true s
    finish (haltUpdate (engineNotice (.lost p.handle) (s.mapEngine fun e => { e with lost := true })))

def execSilenceTimeout (s : State) : Result :=
  .next (match s.engine.silence with
    | none => s
    | some d => silenceExpires d s)

end Sys2Proof.Machine
end

