-- ==== Sys2Proof/Machine/InkEvents.lean ====
section
/-! DEFINITION. The events of the slots, the tag bus and the pumps (chapter 2). -/

namespace Sys2Proof.Machine

set_option Elab.async false

open Sys2Proof

/-- A cartridge-present input takes a level. -/
def setCartridgeInput (c : Chan) (level : Bool) (s : State) : State :=
  { s with inputs := { s.inputs with cartridge := s.inputs.cartridge.set c level } }

/-- A slot becomes READING and its read joins the tag bus (R29). -/
def beginRead (c : Chan) (s : State) : State :=
  let s' := queueTransfer (.read c) (s.mapChannel c fun ch => { ch with slot := .reading })
  handOn c s (reconsider c s')

/-- A cartridge-present sensor rises (R29). A slot that is not EMPTY has no rise to see (log entry 15). -/
def insertCartridge (c : Chan) (s : State) : State :=
  let s := setCartridgeInput c true s
  if (s.channel c).slot = .empty then finish (beginRead c s) else s

def execCartridgeInserted (slot : Chan) (s : State) : Result := .next (insertCartridge slot s)

/-- The refill state of a channel whose slot is EMPTY and whose refill has ended (R33 step 4, R36). -/
def emptyRefill (ch : Channel) : RefillState := if ch.level ≤ Config.refillTrigger then .waiting else .idle

/-- Steps 1 and 2 of a removal: a PUMPING refill's volume is taken, and a USABLE or SPENT cartridge is written to the
memory table (R33). -/
def settleRemoved (c : Chan) (s : State) : State :=
  let s := if (s.channel c).refill = .pumping then take c s else s
  match (s.channel c).slot, (s.channel c).cartridge with
  | .usable, some k => memoryWrite k.serial k.remaining s
  | .spent, some k => memoryWrite k.serial k.remaining s
  | _, _ => s

/-- Steps 3 to 5 of a removal, and its notice (R33). -/
def emptyRemoved (c : Chan) (s : State) : State :=
  let s := emptySlot c s
  let s := setRefill c (emptyRefill (s.channel c)) s
  cartridgeNotice c (saveInk (setRefillMarker c false s))

/-- A cartridge leaves a slot that is REFUSED, USABLE or SPENT (R33). -/
def removeJudged (c : Chan) (s : State) : State :=
  handOn c s (updateIndication c (haltUpdate (emptyRemoved c (settleRemoved c s))))

/-- A sensor falls while the slot is READING: the read is dropped and the slot EMPTY (R29); the ink checkpoint is
written, as on each cartridge removal (R199). -/
def removeUnread (c : Chan) (s : State) : State :=
  handOn c s (reconsider c (cartridgeNotice c (saveInk (emptySlot c s))))

/-- A cartridge-present sensor falls (R29, R33). -/
def removeCartridge (c : Chan) (s : State) : State :=
  let s := setCartridgeInput c false s
  match (s.channel c).slot with
  | .empty => s
  | .reading => finish (firstReadOver c (removeUnread c s))
  | .refused _ | .usable | .spent => finish (removeJudged c s)

def execCartridgeRemoved (slot : Chan) (s : State) : Result := .next (removeCartridge slot s)

/-- The read under way ends with a result (R29, R30). -/
def endRead (c : Chan) (result : Option TagData) (s : State) : State :=
  finish (firstReadOver c (readOutcome c result (nextTransfer s)))

/-- The read under way ends. With no read under way the event has no transfer to end (log entry 25). -/
def tagRead (result : Option TagData) (s : State) : State :=
  match s.ink.tagQueue with
  | .read c :: _ => endRead c result s
  | _ => s

def execTagReadDone (result : Option TagData) (s : State) : Result := .next (tagRead result s)

/-- A marking write has succeeded (R31). -/
def marked (day : Nat) (ch : Channel) : Channel :=
  { ch with cartridge := ch.cartridge.map fun k => { k with opened := true, openedDay := day } }

/-- The write under way ends (R28, R31). -/
def tagWrite (ok : Bool) (s : State) : State :=
  match s.ink.tagQueue with
  | .mark c day :: _ => nextTransfer (if ok then s.mapChannel c (marked day) else s)
  | .volume _ _ :: _ => nextTransfer s
  | _ => s

def execTagWriteDone (ok : Bool) (s : State) : Result := .next (tagWrite ok s)

/-- The transfer under way has not succeeded within 200 ms: it fails (R28). -/
def tagTimeout (s : State) : State :=
  match s.ink.tagDeadline, s.ink.tagQueue with
  | some d, .read c :: _ => endRead c none (timeTo d s)
  | some d, _ :: _ => refreshPanel (nextTransfer (timeTo d s))
  | _, _ => s

def execTagTransferTimeout (s : State) : Result := .next (tagTimeout s)

/-- A PUMPING refill counts a pulse (R38). -/
def countPulse (c : Chan) (s : State) : State :=
  s.mapChannel c fun ch => { ch with job := ch.job.map fun j => { j with pulses := j.pulses + 1 } }

/-- The pumped volume has reached the target (R38). -/
def Channel.pumpedOut (ch : Channel) : Bool := ch.job.any fun j => decide (j.target ≤ j.pumped)

/-- A flow pulse; it is counted while the pump of a PUMPING refill runs (R37, R38). -/
def pulse (c : Chan) (s : State) : State :=
  if (s.channel c).refill = .pumping ∧ (s.channel c).pumpRun then
    let s := countPulse c s
    if (s.channel c).pumpedOut then finish (completeRefill c s) else s
  else s

def execFlowPulse (channel : Chan) (s : State) : Result := .next (pulse channel s)

/-- A refill times out: taken, FAULT, REFILL_FAULT notice (R40). The notice's volume taken is the refill's so far, earlier
takings of it included (log entry 35). -/
def faultRefill (c : Chan) (j : RefillJob) (s : State) : State :=
  let s' := updateIndication c (take c s)
  let s' := s'.mapChannel c fun ch => { ch with refill := .fault }
  let taken := (((s'.channel c).job).map (·.taken)).getD 0
  handOn c s (haltUpdate (raise (.refillFault c j.target taken) s'))

/-- The refill timeout expires (R40). -/
def refillExpires (c : Chan) (s : State) : State :=
  match (s.channel c).refill, (s.channel c).job with
  | .pumping, some j =>
    match j.deadline with
    | some d => finish (faultRefill c j (timeTo d s))
    | none => s
  | _, _ => s

def execRefillTimeout (channel : Chan) (s : State) : Result := .next (refillExpires channel s)

/-- A pump runs dry: taken, remaining 0, SPENT, and the refill ends (R41). -/
def runDry (c : Chan) (s : State) : State :=
  handOn c s (endRefill c (updateIndication c (makeSpent c (setRemaining c 0 (take c s)))))

/-- The dry sense asserts; it is heard while PUMPING alone (R41). One that comes together with the completing pulse finds
the next refill PUMPING where the completion has started one, and ends that refill (log entry 43). -/
def drySensed (c : Chan) (s : State) : State :=
  if (s.channel c).refill = .pumping then finish (runDry c s) else s

def execDrySense (channel : Chan) (s : State) : Result := .next (drySensed channel s)

end Sys2Proof.Machine
end

