-- ==== Sys2Proof/Machine/InkRequests.lean ====
section
/-! DEFINITION. The requests of the ink supply and the ink meter (chapters 2 and 3). -/

namespace Sys2Proof.Machine

set_option Elab.async false

open Sys2Proof

/-- CLEAR_FAULT naming an ink channel (R44). -/
def clearChannelRequest (tag channel : Nat) (s : State) : State :=
  match channelOf channel with
  | none => reply tag .range 0x09 .none s
  | some c =>
    if (s.channel c).refill = .fault then
      let s := endRefill c s
      reply tag .ok 0x09 (.refillState (s.channel c).refill) (finish s)
    else reply tag .state 0x09 .none s

def execClearFaultChannel (tag channel : Nat) (s : State) : Result :=
  .next (request tag 0x09 .operator (clearChannelRequest tag channel) s)

/-- The slot state a new colour code gives the cartridge in the slot (R26). -/
def rejudgedSlot (day : Option Nat) (code : Nat) (slot : SlotState) (k : Cartridge) : SlotState :=
  match slot with
  | .usable | .spent => if k.colour = code then slot else .refused .colour
  | .refused .colour => if k.colour = code then judgeCartridge day code k else slot
  | _ => slot

/-- A new colour code is written and the cartridge in the slot judged against it (R26). A judgement that leaves the slot
as it was writes no ink checkpoint (R199; log entry 44). -/
def recolour (c : Chan) (code : Nat) (s : State) : State :=
  let s := s.mapChannel c fun ch => { ch with colourCode := code }
  let ch := s.channel c
  match ch.cartridge with
  | none => s
  | some k =>
    let slot := rejudgedSlot s.clock.day code ch.slot k
    if slot = ch.slot then s else applyJudgement false c k slot s

/-- CHANNEL_COLOUR (R26). -/
def colourRequest (tag channel code : Nat) (s : State) : State :=
  match channelOf channel with
  | none => reply tag .range 0x18 .none s
  | some c =>
    let ch := s.channel c
    if code < 1 ∨ 30 < code then reply tag .range 0x18 .none s
    else if ch.slot = .reading ∨ ch.refill = .pumping ∨ ch.refill = .suspended then reply tag .busy 0x18 .none s
    else
      let s := recolour c code s
      reply tag .ok 0x18 (.slot (s.channel c).slot) (finish s)

def execChannelColour (tag channel code : Nat) (s : State) : Result :=
  .next (request tag 0x18 .service (colourRequest tag channel code) s)

/-- INK_QUERY's reply for one channel (R47). -/
def inkReport (s : State) (c : Chan) : InkReport :=
  let ch := s.channel c
  { colourCode := ch.colourCode, slot := ch.slot, fields := ch.cartridge, level := ch.level, usable := ch.usable
    committed := s.committed c, indication := ch.indication, parcels := ch.parcels, lastPrice := ch.lastPrice
    refill := ch.refill, job := ch.job.map fun j => (j.target, j.pumped, j.taken, j.price)
    installed := ch.installed }

/-- INK_QUERY's line of a channel (R47). -/
def inkLine (ch : Channel) : InkLine := ⟨ch.colourCode, ch.slot, ch.level, ch.usable, ch.indication, ch.refill⟩

/-- INK_QUERY (R47). -/
def inkQueryReply (tag : Nat) (channel : Option Nat) (s : State) : State :=
  match channel with
  | none => reply tag .ok 0x19 (.inkLines (s.ink.channels.toList.map inkLine)) s
  | some n =>
    match channelOf n with
    | none => reply tag .range 0x19 .none s
    | some c => reply tag .ok 0x19 (.ink (inkReport s c)) s

def execInkQuery (tag : Nat) (channel : Option Nat) (s : State) : Result :=
  .next (request tag 0x19 .operator (inkQueryReply tag channel) s)

/-- A trim as it is written: clamped to 3072..5120 (R52). -/
def clampedTrim (trim : Nat) : Nat := max 3072 (min 5120 trim)

/-- TRIM_SET (R52). -/
def trimRequest (tag channel trim : Nat) (s : State) : State :=
  match channelOf channel with
  | none => reply tag .range 0x1A .none s
  | some c =>
    if s.active.isSome then reply tag .busy 0x1A .none s
    else
      let t := clampedTrim trim
      reply tag .ok 0x1A (.trim t (decide (t ≠ trim)))
        { s with meter := { s.meter with trims := s.meter.trims.set c t } }

def execTrimSet (tag channel trim : Nat) (s : State) : Result :=
  .next (request tag 0x1A .service (trimRequest tag channel trim) s)

/-- DROP_ROW_SET (R53). -/
def dropRowRequest (tag row small medium large : Nat) (s : State) : State :=
  match boundedOf 24 row with
  | none => reply tag .range 0x1B .none s
  | some i =>
    if s.active.isSome then reply tag .busy 0x1B .none s
    else
      let values : DropRow := ⟨small, medium, large⟩
      reply tag .ok 0x1B (.dropRow i values)
        { s with meter := { s.meter with dropTable := s.meter.dropTable.set i values } }

def execDropRowSet (tag row small medium large : Nat) (s : State) : Result :=
  .next (request tag 0x1B .service (dropRowRequest tag row small medium large) s)

/-- MANUAL_MODE_SET (R51). -/
def manualRequest (tag mode row : Nat) (s : State) : State :=
  match manualModeOf mode, boundedOf 24 row with
  | some on, some i =>
    if s.active.isSome then reply tag .busy 0x1C .none s
    else reply tag .ok 0x1C (.manual on i) { s with meter := { s.meter with manualOn := on, manualRow := i } }
  | _, _ => reply tag .range 0x1C .none s

def execManualModeSet (tag mode row : Nat) (s : State) : Result :=
  .next (request tag 0x1C .service (manualRequest tag mode row) s)

/-- METER_QUERY's line of a channel (R62). -/
def meterLine (s : State) (c : Chan) : MeterLine :=
  ⟨s.meter.trims[c], s.meter.residues[c], s.committed c, s.usable c - s.committed c⟩

/-- The prints that hold a reservation on a channel, the ACTIVE print first, then in ready order (R62). -/
def holdersOf (s : State) (c : Chan) : List (Nat × PrintState × Nat) :=
  ((s.active.toList ++ s.readyPrints).filter fun p => decide (0 < p.reservation[c])).map
    fun p => (p.handle, p.state, p.reservation[c])

/-- METER_QUERY (R62). -/
def meterQueryReply (tag : Nat) (channel : Option Nat) (s : State) : State :=
  match channel with
  | none =>
    reply tag .ok 0x1D (.meterAll s.meter.manualOn s.meter.manualRow s.meter.lastRow s.meter.lastSequence
      s.meter.dropTable (channelList.map (meterLine s))) s
  | some n =>
    match channelOf n with
    | none => reply tag .range 0x1D .none s
    | some c => reply tag .ok 0x1D (.meter (meterLine s c) (s.usable c) (holdersOf s c)) s

def execMeterQuery (tag : Nat) (channel : Option Nat) (s : State) : Result :=
  .next (request tag 0x1D .operator (meterQueryReply tag channel) s)

end Sys2Proof.Machine
end

