-- ==== Sys2Proof/WellFormed.lean ====
section
/-! DEFINITION. Which commands are well formed: every field fits the bytes its frame gives it (section 10.8), and a
command that stands for a frame of an unknown kind carries one. A value that fits its bytes but lies outside its range
is well formed: the part refuses it by its own rule (R182). -/

namespace Sys2Proof

set_option Elab.async false

/-- The request kinds of the control link (section 10.8, message kinds). -/
def requestKinds : List Nat :=
  [0x01, 0x02, 0x03, 0x04, 0x05, 0x06, 0x07, 0x08, 0x09, 0x10, 0x11, 0x12, 0x13, 0x18, 0x19, 0x1A, 0x1B, 0x1C, 0x1D,
   0x20, 0x21, 0x22, 0x23, 0x24, 0x25, 0x26, 0x28, 0x29, 0x2A, 0x2B, 0x2C, 0x30, 0x31, 0x32, 0x33, 0x34, 0x35, 0x36,
   0x38, 0x39, 0x3A, 0x3B, 0x3C, 0x3D]

/-- The kinds the engine sends (section 10.8). -/
def engineKinds : List Nat := [0x40, 0x41, 0x42, 0x43, 0x44]

/-- The value fits in n bytes. -/
abbrev fits (n v : Nat) : Bool := decide (v < 256 ^ n)

/-- The value fits a signed 16-bit field. -/
abbrev fitsSigned (v : Int) : Bool := decide (-32768 ≤ v ∧ v ≤ 32767)

/-- A patch fits the reference set's layout: L unsigned, a and b signed. -/
def Patch.fits (p : Patch) : Bool :=
  decide (0 ≤ p.targetL ∧ p.targetL ≤ 65535) && fitsSigned p.targetA && fitsSigned p.targetB

/-- A reading fits READINGS: three signed fields. -/
def Reading.fits (r : Reading) : Bool := fitsSigned r.valL && fitsSigned r.valA && fitsSigned r.valB

/-- The print description fits its 66 bytes. -/
def PrintDescription.fits (d : PrintDescription) : Bool :=
  Sys2Proof.fits 4 d.jobTag && Sys2Proof.fits 1 d.kindCode && d.editionId.all (Sys2Proof.fits 4) &&
  d.refSet.all (Sys2Proof.fits 1) && Sys2Proof.fits 1 d.mediaType && Sys2Proof.fits 2 d.imageWidth &&
  Sys2Proof.fits 4 d.spanLength && d.estimates.toList.all (Sys2Proof.fits 4)

/-- The swath report fits its 113 bytes. -/
def SwathReport.fits (r : SwathReport) : Bool :=
  Sys2Proof.fits 1 r.handle && Sys2Proof.fits 2 r.sequence && fitsSigned r.temperature &&
  r.drops.toList.all fun d => Sys2Proof.fits 3 d.small && Sys2Proof.fits 3 d.medium && Sys2Proof.fits 3 d.large

/-- Most bytes a body holds (R179). -/
abbrev maxBody : Nat := 1024

/-- The command's fields fit its frame. -/
def Instr.wf : Instr → Bool
  | .powerOn _ => true
  | .access t l p => fits 1 t && fits 1 l && fits 4 p
  | .passwordSet t l p => fits 1 t && fits 1 l && fits 4 p
  | .ident t _ => fits 1 t
  | .date t d => fits 1 t && fits 2 d
  | .setInkMargin t _ => fits 1 t
  | .setUncheckedPolicy t _ => fits 1 t
  | .setNoticeMask t _ => fits 1 t
  | .setLamp t _ => fits 1 t
  | .setHaltRouting t _ => fits 1 t
  | .setAttnRouting t _ => fits 1 t
  | .settingsQuery t => fits 1 t
  | .reset t => fits 1 t
  | .factoryRestore t => fits 1 t
  | .clearFaultChannel t c => fits 1 t && fits 1 c
  | .clearFaultTransport t => fits 1 t
  | .clearFaultVerdictLatch t => fits 1 t
  | .printSubmit t d => fits 1 t && d.fits
  | .printRelease t h => fits 1 t && fits 1 h
  | .printCancel t h => fits 1 t && fits 1 h
  | .printQuery t h => fits 1 t && h.all fun n => fits 1 n && n != 0
  | .channelColour t c k => fits 1 t && fits 1 c && fits 1 k
  | .inkQuery t c => fits 1 t && c.all fun n => fits 1 n && n != 0xFF
  | .trimSet t c v => fits 1 t && fits 1 c && fits 2 v
  | .dropRowSet t r a b c => fits 1 t && fits 1 r && fits 2 a && fits 2 b && fits 2 c
  | .manualModeSet t m r => fits 1 t && fits 1 m && fits 1 r
  | .meterQuery t c => fits 1 t && c.all fun n => fits 1 n && n != 0xFF
  | .rollLoad t m w l s => fits 1 t && fits 1 m && fits 2 w && fits 4 l && fits 4 s
  | .rollConfirm t => fits 1 t
  | .move t d => fits 1 t && fits 4 d
  | .rollQuery t => fits 1 t
  | .cutAt t p c => fits 1 t && fits 4 p && fits 1 c
  | .cutNow t c => fits 1 t && fits 1 c
  | .cutQuery t => fits 1 t
  | .referenceLoad t i n ps w f => fits 1 t && fits 1 i && fits 1 n && ps.all Patch.fits && fits 2 w && fits 2 f &&
      decide (6 + 7 * ps.length ≤ maxBody)
  | .referenceSeal t i => fits 1 t && fits 1 i
  | .referenceQuery t i => fits 1 t && fits 1 i
  | .calibrate t => fits 1 t
  | .colourQuery t => fits 1 t
  | .editionOpen t i title l a r m => fits 1 t && fits 4 i && fits 2 l && fits 1 a && fits 1 r && fits 1 m &&
      decide (9 + title.length ≤ maxBody)
  | .editionHold t i => fits 1 t && fits 4 i
  | .editionResume t i => fits 1 t && fits 4 i
  | .editionClose t i => fits 1 t && fits 4 i
  | .editionArchive t i => fits 1 t && fits 4 i
  | .editionQuery t i => fits 1 t && i.all fun n => fits 4 n && n != 0
  | .closedQuery t n => fits 1 t && fits 2 n
  | .tariffSet t l p => fits 1 t && fits 1 l && fits 4 p
  | .mediaSet t m name p a => fits 1 t && fits 1 m && fits 4 p && fitsSigned a && decide (7 + name.length ≤ maxBody)
  | .costRead t => fits 1 t
  | .costDrop t n => fits 1 t && fits 4 n
  | .priceQueryTariff t => fits 1 t
  | .priceQueryMedia t => fits 1 t
  | .priceQueryLog t => fits 1 t
  | .engineQuery t => fits 1 t
  | .unknownKind t k => fits 1 t && fits 1 k && !requestKinds.contains k
  | .frameCheckFault _ => true
  | .frameLengthFault _ => true
  | .gapTimeout _ => true
  | .overrun f => decide (f.body.length ≤ maxBody)
  | .sendListDrain _ => true
  | .engineReady t => fits 1 t
  | .swath t r => fits 1 t && r.fits
  | .feedAsk t h d => fits 1 t && fits 1 h && fits 2 d
  | .printDone t h => fits 1 t && fits 1 h
  | .printFail t h c => fits 1 t && fits 1 h && fits 1 c
  | .engineUnknownKind t k => fits 1 t && fits 1 k && !engineKinds.contains k
  | .silenceTimeout => true
  | .calibrated t => fits 1 t
  | .calibrationFault t c => fits 1 t && fits 1 c
  | .calibrationTimeout => true
  | .calibrationRetryExpiry => true
  | .readings t rs => fits 1 t && rs.all Reading.fits && decide (6 * rs.length ≤ maxBody)
  | .scanFault t c => fits 1 t && fits 1 c
  | .scanTimeout => true
  | .spectroFrameIgnored f => decide (f.body.length ≤ maxBody)
  | .flushWaitExpiry => true
  | .cartridgeInserted _ => true
  | .cartridgeRemoved _ => true
  | .tagReadDone r => r.all fun d => fits 4 d.serial && fits 2 d.openedDay
  | .tagWriteDone _ => true
  | .tagTransferTimeout => true
  | .flowPulse _ => true
  | .refillTimeout _ => true
  | .drySense _ => true
  | .driverArrival => true
  | .movementTimeout => true
  | .driverFault => true
  | .rollPresentChange _ => true
  | .rollEnd => true
  | .flapSettled => true
  | .settleLimitExpiry => true
  | .bladeHome => true
  | .bladeLimitExpiry => true
  | .blinkPeriod => true
  | .dayTimerExpiry => true
  | .rollEndSensorShowsMedia => true
  | .linkByteReceived _ _ => true
  | .bladeLeavesRest => true

end Sys2Proof
end

