-- ==== Sys2Proof/Decode.lean ====
section
/-! DEFINITION. The frames of the three links (R178, section 10.8): the frame check, the command each taken frame
stands for, total on every kind and body, with each refusal by name; and after it the encoder of the same layouts. The
opcode table gives its rows no bits, so `decodeTableWord` reads no command from a word. -/

namespace Sys2Proof

set_option Elab.async false

/-- The opcode table gives no row any bits: no word spells a command. -/
def decodeTableWord (_nbits _w : Nat) : Option Instr := none

/-! ## Bytes and fields -/

/-- The unsigned number of bytes sent least significant first (R178). -/
def leNat : List Byte → Nat
  | [] => 0
  | b :: bs => b.toNat + 256 * leNat bs

/-- The n bytes of v, least significant first (R178). -/
def leBytes : Nat → Nat → List Byte
  | 0, _ => []
  | n + 1, v => BitVec.ofNat 8 v :: leBytes n (v / 256)

/-- The n-byte field at an offset of a body. -/
def field (body : List Byte) (offset n : Nat) : Nat := leNat ((body.drop offset).take n)

/-- A 16-bit field read as two's complement (section 10.8). -/
def signed16 (v : Nat) : Int := if v < 32768 then (v : Int) else (v : Int) - 65536

/-- The two bytes of a signed value. -/
def signedBytes (v : Int) : List Byte := leBytes 2 (v % 65536).toNat

/-! ## The frame check (R178): CRC-16, polynomial 1021h, initial value FFFFh, most significant bit first -/

/-- One bit into the check. -/
def crcBit (crc : BitVec 16) (bit : Bool) : BitVec 16 :=
  if crc.msb != bit then (crc <<< 1) ^^^ 0x1021#16 else crc <<< 1

/-- One byte into the check. -/
def crcByte (crc : BitVec 16) (b : Byte) : BitVec 16 :=
  [7, 6, 5, 4, 3, 2, 1, 0].foldl (fun c i => crcBit c (b.getLsbD i)) crc

/-- The check of a list of bytes. -/
def crc16 (bytes : List Byte) : BitVec 16 := bytes.foldl crcByte 0xFFFF#16

/-- The check of a frame, over its length, kind, tag and body bytes. -/
def frameCheck (kind tag : Byte) (body : List Byte) : Nat :=
  (crc16 (leBytes 2 body.length ++ kind :: tag :: body)).toNat

/-- A frame as it crosses a link: start marker, length, kind, tag, body, check. -/
def Frame.toBytes (f : Frame) : List Byte :=
  0xA5#8 :: (leBytes 2 f.body.length ++ f.kind :: f.tag :: f.body ++ leBytes 2 (frameCheck f.kind f.tag f.body))

/-! ## Requests on the control link -/

/-- What a taken control frame stands for (R182): a command; a kind whose body length is not one the kind allows; or a
body of the right length that names a setting, fault target or price part outside its list, which the owning rule
refuses RANGE at the request's access level. An unknown kind is a command of its own (UNKNOWN_KIND). -/
inductive ControlTaken where
  | command (c : Instr)
  | malformed (tag kind : Nat)
  | outsideList (tag kind : Nat) (level : AccessLevel)
  deriving DecidableEq, Repr

/-- A body of exactly n bytes gives the command; any other is malformed. -/
def exactly (f : Frame) (n : Nat) (c : Instr) : ControlTaken :=
  if f.body.length = n then .command c else .malformed f.tag.toNat f.kind.toNat

/-- The print description's body (section 10.8). -/
def decodeDescription (b : List Byte) : PrintDescription :=
  { jobTag := field b 0 4
    kindCode := field b 4 1
    hold := (b.getD 5 0).getLsbD 0
    editionId := if (b.getD 5 0).getLsbD 1 then some (field b 6 4) else none
    refSet := if (b.getD 5 0).getLsbD 2 then some (field b 10 1) else none
    mediaType := field b 11 1
    imageWidth := field b 12 2
    spanLength := field b 14 4
    estimates := Vector.ofFn fun c => field b (18 + 4 * c.val) 4 }

/-- Patch k of a reference set's body (section 10.8). -/
def decodePatch (b : List Byte) (k : Nat) : Patch :=
  { targetL := field b (6 + 7 * k) 2
    targetA := signed16 (field b (8 + 7 * k) 2)
    targetB := signed16 (field b (10 + 7 * k) 2)
    critical := (b.getD (12 + 7 * k) 0).getLsbD 0 }

/-- REFERENCE_LOAD: 6 bytes and 7 for each patch carried (R182). -/
def decodeReference (f : Frame) : ControlTaken :=
  let b := f.body
  if 6 ≤ b.length ∧ (b.length - 6) % 7 = 0 then
    .command (.referenceLoad f.tag.toNat (field b 0 1) (field b 1 1)
      ((List.range ((b.length - 6) / 7)).map (decodePatch b)) (field b 2 2) (field b 4 2))
  else .malformed f.tag.toNat f.kind.toNat

/-- SETTING_SET: five bytes; the setting's code chooses the command (section 10.8). -/
def decodeSetting (f : Frame) : ControlTaken :=
  let t := f.tag.toNat
  let v := BitVec.ofNat 32 (field f.body 1 4)
  if f.body.length = 5 then
    match field f.body 0 1 with
    | 0 => .command (.setInkMargin t v)
    | 1 => .command (.setUncheckedPolicy t v)
    | 2 => .command (.setNoticeMask t v)
    | 3 => .command (.setLamp t v)
    | 4 => .command (.setHaltRouting t v)
    | 5 => .command (.setAttnRouting t v)
    | _ => .outsideList t f.kind.toNat .studio
  else .malformed t f.kind.toNat

/-- CLEAR_FAULT: two bytes; the channel is read for an ink channel only (R197). -/
def decodeClearFault (f : Frame) : ControlTaken :=
  let t := f.tag.toNat
  if f.body.length = 2 then
    match field f.body 0 1 with
    | 0 => .command (.clearFaultChannel t (field f.body 1 1))
    | 1 => .command (.clearFaultTransport t)
    | 2 => .command (.clearFaultVerdictLatch t)
    | _ => .outsideList t f.kind.toNat .operator
  else .malformed t f.kind.toNat

/-- PRICE_QUERY: one byte (R163). -/
def decodePriceQuery (f : Frame) : ControlTaken :=
  let t := f.tag.toNat
  if f.body.length = 1 then
    match field f.body 0 1 with
    | 0 => .command (.priceQueryTariff t)
    | 1 => .command (.priceQueryMedia t)
    | 2 => .command (.priceQueryLog t)
    | _ => .outsideList t f.kind.toNat .operator
  else .malformed t f.kind.toNat

/-- EDITION_OPEN: nine bytes and the title (section 10.8). -/
def decodeEditionOpen (f : Frame) : ControlTaken :=
  let b := f.body
  if 9 ≤ b.length then
    .command (.editionOpen f.tag.toNat (field b 0 4) (b.drop 9) (field b 4 2) (field b 6 1) (field b 7 1) (field b 8 1))
  else .malformed f.tag.toNat f.kind.toNat

/-- MEDIA_SET: seven bytes and the name (section 10.8). -/
def decodeMediaSet (f : Frame) : ControlTaken :=
  let b := f.body
  if 7 ≤ b.length then
    .command (.mediaSet f.tag.toNat (field b 0 1) (b.drop 7) (field b 1 4) (signed16 (field b 5 2)))
  else .malformed f.tag.toNat f.kind.toNat

/-- A field in which one value stands for "none" (section 10.8). -/
def orNone (absent v : Nat) : Option Nat := if v = absent then none else some v

/-- The command a taken control frame stands for (R182, section 10.8). -/
def decodeControl (f : Frame) : ControlTaken :=
  let t := f.tag.toNat
  let b := f.body
  match f.kind.toNat with
  | 0x01 => exactly f 5 (.access t (field b 0 1) (field b 1 4))
  | 0x02 => exactly f 5 (.passwordSet t (field b 0 1) (field b 1 4))
  | 0x03 => exactly f 1 (.ident t ((b.getD 0 0).getLsbD 0))
  | 0x04 => exactly f 2 (.date t (field b 0 2))
  | 0x05 => decodeSetting f
  | 0x06 => exactly f 0 (.settingsQuery t)
  | 0x07 => exactly f 0 (.reset t)
  | 0x08 => exactly f 0 (.factoryRestore t)
  | 0x09 => decodeClearFault f
  | 0x10 => exactly f 66 (.printSubmit t (decodeDescription b))
  | 0x11 => exactly f 1 (.printRelease t (field b 0 1))
  | 0x12 => exactly f 1 (.printCancel t (field b 0 1))
  | 0x13 => exactly f 1 (.printQuery t (orNone 0 (field b 0 1)))
  | 0x18 => exactly f 2 (.channelColour t (field b 0 1) (field b 1 1))
  | 0x19 => exactly f 1 (.inkQuery t (orNone 0xFF (field b 0 1)))
  | 0x1A => exactly f 3 (.trimSet t (field b 0 1) (field b 1 2))
  | 0x1B => exactly f 7 (.dropRowSet t (field b 0 1) (field b 1 2) (field b 3 2) (field b 5 2))
  | 0x1C => exactly f 2 (.manualModeSet t (field b 0 1) (field b 1 1))
  | 0x1D => exactly f 1 (.meterQuery t (orNone 0xFF (field b 0 1)))
  | 0x20 => exactly f 11 (.rollLoad t (field b 0 1) (field b 1 2) (field b 3 4) (field b 7 4))
  | 0x21 => exactly f 0 (.rollConfirm t)
  | 0x22 => exactly f 4 (.move t (field b 0 4))
  | 0x23 => exactly f 0 (.rollQuery t)
  | 0x24 => exactly f 5 (.cutAt t (field b 0 4) (field b 4 1))
  | 0x25 => exactly f 1 (.cutNow t (field b 0 1))
  | 0x26 => exactly f 0 (.cutQuery t)
  | 0x28 => decodeReference f
  | 0x29 => exactly f 1 (.referenceSeal t (field b 0 1))
  | 0x2A => exactly f 1 (.referenceQuery t (field b 0 1))
  | 0x2B => exactly f 0 (.calibrate t)
  | 0x2C => exactly f 0 (.colourQuery t)
  | 0x30 => decodeEditionOpen f
  | 0x31 => exactly f 4 (.editionHold t (field b 0 4))
  | 0x32 => exactly f 4 (.editionResume t (field b 0 4))
  | 0x33 => exactly f 4 (.editionClose t (field b 0 4))
  | 0x34 => exactly f 4 (.editionArchive t (field b 0 4))
  | 0x35 => exactly f 4 (.editionQuery t (orNone 0 (field b 0 4)))
  | 0x36 => exactly f 2 (.closedQuery t (field b 0 2))
  | 0x38 => exactly f 5 (.tariffSet t (field b 0 1) (field b 1 4))
  | 0x39 => decodeMediaSet f
  | 0x3A => exactly f 0 (.costRead t)
  | 0x3B => exactly f 4 (.costDrop t (field b 0 4))
  | 0x3C => decodePriceQuery f
  | 0x3D => exactly f 0 (.engineQuery t)
  | k => .command (.unknownKind t k)

/-! ## Frames of the engine and the spectro head -/

/-- What a frame taken from the engine stands for (R164): a command, or a known kind whose body is not the length that
kind carries. -/
inductive EngineTaken where
  | command (c : Instr)
  | malformed (tag kind : Nat)
  deriving DecidableEq, Repr

/-- A body of exactly n bytes gives the command; any other is malformed. -/
def engineExactly (f : Frame) (n : Nat) (c : Instr) : EngineTaken :=
  if f.body.length = n then .command c else .malformed f.tag.toNat f.kind.toNat

/-- The swath report's body (section 10.8). -/
def decodeSwath (b : List Byte) : SwathReport :=
  { handle := field b 0 1
    sequence := field b 1 2
    temperature := signed16 (field b 3 2)
    drops := Vector.ofFn fun c =>
      ⟨field b (5 + 9 * c.val) 3, field b (8 + 9 * c.val) 3, field b (11 + 9 * c.val) 3⟩ }

/-- The command a frame from the engine stands for (R164). -/
def decodeEngine (f : Frame) : EngineTaken :=
  let t := f.tag.toNat
  let b := f.body
  match f.kind.toNat with
  | 0x40 => engineExactly f 0 (.engineReady t)
  | 0x41 => engineExactly f 113 (.swath t (decodeSwath b))
  | 0x42 => engineExactly f 3 (.feedAsk t (field b 0 1) (field b 1 2))
  | 0x43 => engineExactly f 1 (.printDone t (field b 0 1))
  | 0x44 => engineExactly f 2 (.printFail t (field b 0 1) (field b 1 1))
  | k => .command (.engineUnknownKind t k)

/-- Reading k of a READINGS body (section 10.8). -/
def decodeReading (b : List Byte) (k : Nat) : Reading :=
  ⟨signed16 (field b (6 * k) 2), signed16 (field b (6 * k + 2) 2), signed16 (field b (6 * k + 4) 2)⟩

/-- The command a frame from the spectro head stands for; a frame that is not well formed or of another kind is
ignored (R112, section 10.8). -/
def decodeSpectro (f : Frame) : Instr :=
  let t := f.tag.toNat
  let b := f.body
  match f.kind.toNat with
  | 0xE0 => if b.length = 0 then .calibrated t else .spectroFrameIgnored f
  | 0xE1 => if b.length = 1 then .calibrationFault t (field b 0 1) else .spectroFrameIgnored f
  | 0xE2 => if b.length % 6 = 0 then .readings t ((List.range (b.length / 6)).map (decodeReading b))
            else .spectroFrameIgnored f
  | 0xE3 => if b.length = 1 then .scanFault t (field b 0 1) else .spectroFrameIgnored f
  | _ => .spectroFrameIgnored f

/-! ## The encoder, from the same layouts -/

/-- A frame of numbers. -/
def mkFrame (kind tag : Nat) (body : List Byte) : Frame := ⟨BitVec.ofNat 8 kind, BitVec.ofNat 8 tag, body⟩

/-- The bits of the print description's option byte. -/
def descriptionBits (d : PrintDescription) : Nat :=
  (if d.hold then 1 else 0) + (if d.editionId.isSome then 2 else 0) + (if d.refSet.isSome then 4 else 0)

/-- The print description's 66 bytes (section 10.8). -/
def encodeDescription (d : PrintDescription) : List Byte :=
  leBytes 4 d.jobTag ++ leBytes 1 d.kindCode ++ leBytes 1 (descriptionBits d) ++ leBytes 4 (d.editionId.getD 0) ++
  leBytes 1 (d.refSet.getD 0) ++ leBytes 1 d.mediaType ++ leBytes 2 d.imageWidth ++ leBytes 4 d.spanLength ++
  d.estimates.toList.flatMap (leBytes 4)

/-- A patch's seven bytes. -/
def encodePatch (p : Patch) : List Byte :=
  leBytes 2 p.targetL.toNat ++ signedBytes p.targetA ++ signedBytes p.targetB ++ leBytes 1 (if p.critical then 1 else 0)

/-- A reference set's body: index, patch count, tolerances, patches (section 10.8). -/
def encodeReference (index count : Nat) (patches : List Patch) (warn fail : Nat) : List Byte :=
  leBytes 1 index ++ leBytes 1 count ++ leBytes 2 warn ++ leBytes 2 fail ++ patches.flatMap encodePatch

/-- The swath report's 113 bytes (section 10.8). -/
def encodeSwath (r : SwathReport) : List Byte :=
  leBytes 1 r.handle ++ leBytes 2 r.sequence ++ signedBytes r.temperature ++
  r.drops.toList.flatMap fun d => leBytes 3 d.small ++ leBytes 3 d.medium ++ leBytes 3 d.large

/-- A reading's six bytes. -/
def encodeReading (r : Reading) : List Byte := signedBytes r.valL ++ signedBytes r.valA ++ signedBytes r.valB

/-- SETTING_SET's body. -/
def encodeSetting (code : Nat) (v : BitVec 32) : List Byte := leBytes 1 code ++ leBytes 4 v.toNat

/-- The frame of a request (section 10.8); none for a command that is no control request. -/
def encodeControl : Instr → Option Frame
  | .access t l p => some (mkFrame 0x01 t (leBytes 1 l ++ leBytes 4 p))
  | .passwordSet t l p => some (mkFrame 0x02 t (leBytes 1 l ++ leBytes 4 p))
  | .ident t c => some (mkFrame 0x03 t (leBytes 1 (if c then 1 else 0)))
  | .date t d => some (mkFrame 0x04 t (leBytes 2 d))
  | .setInkMargin t v => some (mkFrame 0x05 t (encodeSetting 0 v))
  | .setUncheckedPolicy t v => some (mkFrame 0x05 t (encodeSetting 1 v))
  | .setNoticeMask t v => some (mkFrame 0x05 t (encodeSetting 2 v))
  | .setLamp t v => some (mkFrame 0x05 t (encodeSetting 3 v))
  | .setHaltRouting t v => some (mkFrame 0x05 t (encodeSetting 4 v))
  | .setAttnRouting t v => some (mkFrame 0x05 t (encodeSetting 5 v))
  | .settingsQuery t => some (mkFrame 0x06 t [])
  | .reset t => some (mkFrame 0x07 t [])
  | .factoryRestore t => some (mkFrame 0x08 t [])
  | .clearFaultChannel t c => some (mkFrame 0x09 t (leBytes 1 0 ++ leBytes 1 c))
  | .clearFaultTransport t => some (mkFrame 0x09 t (leBytes 1 1 ++ leBytes 1 0))
  | .clearFaultVerdictLatch t => some (mkFrame 0x09 t (leBytes 1 2 ++ leBytes 1 0))
  | .printSubmit t d => some (mkFrame 0x10 t (encodeDescription d))
  | .printRelease t h => some (mkFrame 0x11 t (leBytes 1 h))
  | .printCancel t h => some (mkFrame 0x12 t (leBytes 1 h))
  | .printQuery t h => some (mkFrame 0x13 t (leBytes 1 (h.getD 0)))
  | .channelColour t c k => some (mkFrame 0x18 t (leBytes 1 c ++ leBytes 1 k))
  | .inkQuery t c => some (mkFrame 0x19 t (leBytes 1 (c.getD 0xFF)))
  | .trimSet t c v => some (mkFrame 0x1A t (leBytes 1 c ++ leBytes 2 v))
  | .dropRowSet t r a b c => some (mkFrame 0x1B t (leBytes 1 r ++ leBytes 2 a ++ leBytes 2 b ++ leBytes 2 c))
  | .manualModeSet t m r => some (mkFrame 0x1C t (leBytes 1 m ++ leBytes 1 r))
  | .meterQuery t c => some (mkFrame 0x1D t (leBytes 1 (c.getD 0xFF)))
  | .rollLoad t m w l s => some (mkFrame 0x20 t (leBytes 1 m ++ leBytes 2 w ++ leBytes 4 l ++ leBytes 4 s))
  | .rollConfirm t => some (mkFrame 0x21 t [])
  | .move t d => some (mkFrame 0x22 t (leBytes 4 d))
  | .rollQuery t => some (mkFrame 0x23 t [])
  | .cutAt t p c => some (mkFrame 0x24 t (leBytes 4 p ++ leBytes 1 c))
  | .cutNow t c => some (mkFrame 0x25 t (leBytes 1 c))
  | .cutQuery t => some (mkFrame 0x26 t [])
  | .referenceLoad t i n ps w f => some (mkFrame 0x28 t (encodeReference i n ps w f))
  | .referenceSeal t i => some (mkFrame 0x29 t (leBytes 1 i))
  | .referenceQuery t i => some (mkFrame 0x2A t (leBytes 1 i))
  | .calibrate t => some (mkFrame 0x2B t [])
  | .colourQuery t => some (mkFrame 0x2C t [])
  | .editionOpen t i title l a r m =>
    some (mkFrame 0x30 t (leBytes 4 i ++ leBytes 2 l ++ leBytes 1 a ++ leBytes 1 r ++ leBytes 1 m ++ title))
  | .editionHold t i => some (mkFrame 0x31 t (leBytes 4 i))
  | .editionResume t i => some (mkFrame 0x32 t (leBytes 4 i))
  | .editionClose t i => some (mkFrame 0x33 t (leBytes 4 i))
  | .editionArchive t i => some (mkFrame 0x34 t (leBytes 4 i))
  | .editionQuery t i => some (mkFrame 0x35 t (leBytes 4 (i.getD 0)))
  | .closedQuery t n => some (mkFrame 0x36 t (leBytes 2 n))
  | .tariffSet t l p => some (mkFrame 0x38 t (leBytes 1 l ++ leBytes 4 p))
  | .mediaSet t m name p a => some (mkFrame 0x39 t (leBytes 1 m ++ leBytes 4 p ++ signedBytes a ++ name))
  | .costRead t => some (mkFrame 0x3A t [])
  | .costDrop t n => some (mkFrame 0x3B t (leBytes 4 n))
  | .priceQueryTariff t => some (mkFrame 0x3C t (leBytes 1 0))
  | .priceQueryMedia t => some (mkFrame 0x3C t (leBytes 1 1))
  | .priceQueryLog t => some (mkFrame 0x3C t (leBytes 1 2))
  | .engineQuery t => some (mkFrame 0x3D t [])
  | .unknownKind t k => some (mkFrame k t [])
  | _ => none

/-- The frame of a message from the engine (section 10.8); none for any other command. -/
def encodeEngine : Instr → Option Frame
  | .engineReady t => some (mkFrame 0x40 t [])
  | .swath t r => some (mkFrame 0x41 t (encodeSwath r))
  | .feedAsk t h d => some (mkFrame 0x42 t (leBytes 1 h ++ leBytes 2 d))
  | .printDone t h => some (mkFrame 0x43 t (leBytes 1 h))
  | .printFail t h c => some (mkFrame 0x44 t (leBytes 1 h ++ leBytes 1 c))
  | .engineUnknownKind t k => some (mkFrame k t [])
  | _ => none

/-- The frame of a message from the spectro head (section 10.8); none for any other command. -/
def encodeSpectro : Instr → Option Frame
  | .calibrated t => some (mkFrame 0xE0 t [])
  | .calibrationFault t c => some (mkFrame 0xE1 t (leBytes 1 c))
  | .readings t rs => some (mkFrame 0xE2 t (rs.flatMap encodeReading))
  | .scanFault t c => some (mkFrame 0xE3 t (leBytes 1 c))
  | _ => none

/-- The code of a why field, in the order of its list (section 10.8). -/
def Why.code : Why → Nat
  | .noPrint => 0
  | .halt => 1
  | .roll => 2
  | .transport => 3
  | .positioning => 4

/-- The code of a refusal reason, in the order of its list (section 10.8). -/
def EngineRefusal.code : EngineRefusal → Nat
  | .state => 0
  | .handle => 1
  | .stopped => 2
  | .busy => 3
  | .malformed => 4
  | .unknownKind => 5

/-- A message of the part to the engine, as its frame (section 10.8). -/
def EngineFrame.toFrame : EngineFrame → Frame
  | .printGo t h w l m => mkFrame 0xC0 t (leBytes 1 h ++ leBytes 2 w ++ leBytes 4 l ++ leBytes 1 m)
  | .nothing t y => mkFrame 0xC1 t (leBytes 1 y.code)
  | .feedDone t d c => mkFrame 0xC2 t (leBytes 2 d ++ leBytes 1 (if c then 1 else 0))
  | .taken t => mkFrame 0xC3 t []
  | .printStop h => mkFrame 0xC4 0 (leBytes 1 h)
  | .refused t r => mkFrame 0xC5 t (leBytes 1 r.code)

/-- A command of the part to the spectro head, as its frame (section 10.8). -/
def SpectroCommand.toFrame : SpectroCommand → Frame
  | .calibrate t => mkFrame 0x60 t []
  | .scan t h n => mkFrame 0x61 t (leBytes 1 h ++ leBytes 1 n)

end Sys2Proof
end

