-- ==== Sys2Proof/Machine/SpectroEvents.lean ====
section
/-! DEFINITION. The frames of the spectro head, its two timeouts and the calibration retry timer (chapter 6). -/

namespace Sys2Proof.Machine

set_option Elab.async false

open Sys2Proof

/-- A calibration ends as `ending` says, if the given tag is the one in flight (R112, R116). -/
def calibrationAnswer (tag : Nat) (ending : Bool → State → State) (s : State) : State :=
  match s.colour.spectro with
  | .calibrating t _ _ requested => if t = tag then finish (ending requested s) else s
  | _ => s

/-- CALIBRATED (R116). -/
def execCalibrated (tag : Nat) (s : State) : Result := .next (calibrationAnswer tag completeCalibration s)

/-- CALIBRATION_FAULT (R116). -/
def execCalibrationFault (tag cause : Nat) (s : State) : Result :=
  .next (calibrationAnswer tag (failCalibration (.failedFault cause)) s)

/-- The calibration timeout expires (R116). -/
def calibrationExpires (s : State) : State :=
  match s.colour.spectro with
  | .calibrating _ _ deadline requested => finish (failCalibration .failedTimeout requested (timeTo deadline s))
  | _ => s

def execCalibrationTimeout (s : State) : Result := .next (calibrationExpires s)

/-- The retry timer expires (R114). -/
def retryExpires (s : State) : State :=
  match s.colour.retryDeadline with
  | none => s
  | some d => refreshPanel (autoCalibrate ((timeTo d s).mapColour fun u => { u with retryDeadline := none }))

def execCalibrationRetryExpiry (s : State) : Result := .next (retryExpires s)

/-- The largest swath gap of a print; 0 for one that has left the queue. -/
def State.gapOf (s : State) (h : Nat) : Nat := ((s.findPrint h).map (·.largestGap)).getD 0

/-- A completed scan raises the scan count (R118). -/
def countScan (s : State) : State := s.mapColour fun u => { u with scanCount := rise16 u.scanCount }

/-- The end of a scan, what follows at the transport, and what the free head does next (R117 to R119, R125). -/
def scanEnds (job : ScanJob) (tag : Nat) (stale discarded : Bool) (r : ScanResult) (s : State) : State :=
  finish (afterCommand (advance (endScan job tag stale discarded r s)))

/-- A scan that ends with a fault (R118). -/
def faultedScan (job : ScanJob) (tag : Nat) (stale : Bool) (ending : ScanEnd) (cause : UncheckedCause) : ScanResult :=
  uncheckedResult cause (scanRecord job tag stale ending)

/-- READINGS (R118). -/
def readingsFrame (tag : Nat) (list : List Reading) (s : State) : State :=
  match s.colour.spectro with
  | .scanning t _ _ stale job discarded =>
    if t = tag then
      if list.length = job.patches.length then
        scanEnds job t stale discarded (completedResult job t stale (s.gapOf job.handle) list) (countScan s)
      else scanEnds job t stale discarded (faultedScan job t stale .length .length) s
    else s
  | _ => s

def execReadings (tag : Nat) (list : List Reading) (s : State) : Result := .next (readingsFrame tag list s)

/-- SCAN_FAULT (R118). -/
def scanFaultFrame (tag cause : Nat) (s : State) : State :=
  match s.colour.spectro with
  | .scanning t _ _ stale job discarded =>
    if t = tag then scanEnds job t stale discarded (faultedScan job t stale (.fault cause) (.fault cause)) s else s
  | _ => s

def execScanFault (tag cause : Nat) (s : State) : Result := .next (scanFaultFrame tag cause s)

/-- The scan timeout expires (R118). -/
def scanExpires (s : State) : State :=
  match s.colour.spectro with
  | .scanning t _ deadline stale job discarded =>
    scanEnds job t stale discarded (faultedScan job t stale .timeout .timeout) (timeTo deadline s)
  | _ => s

def execScanTimeout (s : State) : Result := .next (scanExpires s)

/-- Any other well-formed frame from the head changes no state (R112). -/
def execSpectroFrameIgnored (_frame : Frame) (s : State) : Result := .next s

end Sys2Proof.Machine
end

