-- ==== Sys2Proof/Machine/LinkEvents.lean ====
section
/-! DEFINITION. The three receivers: bytes, frames taken and handed on, and the four faults (R179 to R181). -/

namespace Sys2Proof.Machine

set_option Elab.async false

open Sys2Proof

/-- One link's receiver, changed. -/
def State.mapLink (s : State) (l : Link) (f : LinkState → LinkState) : State :=
  match l with
  | .control => { s with links := { s.links with control := f s.links.control } }
  | .engine => { s with links := { s.links with engine := f s.links.engine } }
  | .spectro => { s with links := { s.links with spectro := f s.links.spectro } }

/-- One link's receiver. -/
def State.link (s : State) : Link → LinkState
  | .control => s.links.control
  | .engine => s.links.engine
  | .spectro => s.links.spectro

/-- The fault counter of a link rises; on the control link a FRAME_FAULT notice reports the discard (R180). -/
def countFault (l : Link) (cause : FrameFault) (s : State) : State :=
  let s := s.mapLink l fun k => { k with faults := rise16 k.faults }
  match l with
  | .control => raise (.frameFault cause s.links.control.faults) s
  | _ => s

/-- The receiver is in HUNT, with no gap timer (R179). -/
def hunting (k : LinkState) : LinkState := { k with receiver := .hunt, gapDeadline := none }

/-- The partial frame is discarded as a fault, and the receiver returns to HUNT (R179). -/
def discardFrame (l : Link) (cause : FrameFault) (s : State) : State := countFault l cause (s.mapLink l hunting)

/-- A frame fails its check (R179, R180). -/
def execFrameCheckFault (link : Link) (s : State) : Result := .next (refreshPanel (discardFrame link .check s))

/-- A frame's length is above 1024 (R179, R180). -/
def execFrameLengthFault (link : Link) (s : State) : Result := .next (refreshPanel (discardFrame link .length s))

/-- 50 ms pass without a byte inside a frame (R179, R180). Where the model holds the partial frame its gap timer gives
the moment (log entry 5). -/
def gapExpires (l : Link) (s : State) : State :=
  match (s.link l).gapDeadline with
  | some d => discardFrame l .gap (timeTo d s)
  | none => discardFrame l .gap s

def execGapTimeout (link : Link) (s : State) : Result := .next (refreshPanel (gapExpires link s))

/-- A control frame is complete: it waits in the receive list, or is discarded as an OVERRUN while the list holds 4
(R181). -/
def receiveFrame (f : Frame) (s : State) : State :=
  if s.control.receiveList.length < Config.receiveRoom then
    s.mapControl fun k => { k with receiveList := k.receiveList ++ [f] }
  else countFault .control .overrun s

/-- A frame completes on the control link while a request is being handled (R181; log entry 5). -/
def execOverrun (frame : Frame) (s : State) : Result := .next (refreshPanel (receiveFrame frame s))

/-- A result's state; no meaning stops, so there always is one. -/
def resultState (s : State) : Result → State
  | .next t => t
  | _ => s

/-- A frame taken from the engine is handled by its owner as it arrives (R164). -/
def takeEngine (f : Frame) (s : State) : State :=
  match decodeEngine f with
  | .malformed tag kind => engineMalformed tag kind s
  | .command c =>
    match c with
    | .engineReady t => readyFrame t s
    | .swath t r => swathFrame t r s
    | .feedAsk t h d => feedAskFrame t h d s
    | .printDone t h => resultState s (execPrintDone t h s)
    | .printFail t h k => printFailFrame t h k s
    | .engineUnknownKind t k => resultState s (execEngineUnknownKind t k s)
    | _ => s

/-- A frame taken from the spectro head is handled by its owner as it arrives (R112). -/
def takeSpectro (f : Frame) (s : State) : State :=
  match decodeSpectro f with
  | .calibrated t => resultState s (execCalibrated t s)
  | .calibrationFault t k => resultState s (execCalibrationFault t k s)
  | .readings t rs => readingsFrame t rs s
  | .scanFault t k => scanFaultFrame t k s
  | _ => s

/-- A taken frame is handed to the link's owner (R179). -/
def takeFrame (l : Link) (f : Frame) (s : State) : State :=
  match l with
  | .control => receiveFrame f s
  | .engine => takeEngine f s
  | .spectro => takeSpectro f s

/-- The receiver goes on inside a frame, and its gap timer runs from this byte (R179). -/
def goOn (l : Link) (r : Receiver) (s : State) : State :=
  s.mapLink l fun k => { k with receiver := r, gapDeadline := some (s.clock.now + Config.gapTimeout) }

/-- The two bytes of a field, least significant first (R178). -/
def twoBytes (low high : Byte) : Nat := low.toNat + 256 * high.toNat

/-- The second check byte has arrived: the frame is taken or discarded (R179). -/
def endFrame (l : Link) (f : Frame) (check : Nat) (s : State) : State :=
  if check = frameCheck f.kind f.tag f.body then takeFrame l f (s.mapLink l hunting) else discardFrame l .check s

/-- One byte reaches a link's receiver (R179). -/
def receiveByte (l : Link) (b : Byte) (s : State) : State :=
  match (s.link l).receiver with
  | .hunt => if b = 0xA5#8 then goOn l (.length none) s else s
  | .length none => goOn l (.length (some b)) s
  | .length (some low) =>
    let n := twoBytes low b
    if maxBody < n then discardFrame l .length s else goOn l (.kind n) s
  | .kind n => goOn l (.tag n b) s
  | .tag n kind => goOn l (if n = 0 then .check n kind b [] none else .body n kind b []) s
  | .body n kind tag bytes =>
    let bytes := bytes ++ [b]
    goOn l (if bytes.length < n then .body n kind tag bytes else .check n kind tag bytes none) s
  | .check n kind tag bytes none => goOn l (.check n kind tag bytes (some b)) s
  | .check _ kind tag bytes (some low) => endFrame l ⟨kind, tag, bytes⟩ (twoBytes low b) s

/-- A byte arrives on a link (R179). -/
def execLinkByteReceived (link : Link) (byte : Byte) (s : State) : Result :=
  .next (refreshPanel (receiveByte link byte s))

end Sys2Proof.Machine
end

