-- ==== Sys2Proof/Machine/MediaEvents.lean ====
section
/-! DEFINITION. The events of the feed driver, the roll sensors, the flap, the blade and the flush wait (chapters 4 and
5, R21). -/

namespace Sys2Proof.Machine

set_option Elab.async false

open Sys2Proof

/-- The flush wait expires: a flush is due while anything but a server cut awaits the transport (R21). -/
def flushExpires (s : State) : State :=
  match s.queue.flushDeadline with
  | none => s
  | some d =>
    let s := timeTo d s
    let due := s.queue.flushDue || s.awaitsTransport
    finish { s with queue := { s.queue with flushDeadline := none, flushDue := due } }

def execFlushWaitExpiry (s : State) : Result := .next (flushExpires s)

/-- The driver signals arrival; with no movement under way it is ignored (R78, R82). -/
def arrival (s : State) : State := if s.media.movement.isSome then finish (arrive s) else s

def execDriverArrival (s : State) : Result := .next (arrival s)

/-- The movement timeout expires (R78, R82). -/
def movementExpires (s : State) : State :=
  match s.media.movement with
  | none => s
  | some m => finish (faultTransport .timeout (timeTo m.deadline s))

def execMovementTimeout (s : State) : Result := .next (movementExpires s)

/-- The driver's fault input asserts; while FAULTED it is ignored (R82). -/
def driverFaults (s : State) : State :=
  if s.media.state = .faulted then s else finish (faultTransport .driver s)

def execDriverFault (s : State) : Result := .next (driverFaults s)

/-- The roll-present sensor takes a level; a change sends a ROLL notice (R73). -/
def rollPresentTakes (level : Bool) (s : State) : State :=
  if s.inputs.rollPresent = level then s
  else
    refreshPanel (rollNotice (.sensorRollPresent level) { s with inputs := { s.inputs with rollPresent := level } })

def execRollPresentChange (level : Bool) (s : State) : Result := .next (rollPresentTakes level s)

/-- The roll-end sensor takes a level. -/
def setRollEnd (showsMedia : Bool) (s : State) : State :=
  { s with inputs := { s.inputs with rollEndMedia := showsMedia } }

/-- The roll-end sensor changes to show no media (R84). -/
def rollEndTrips (s : State) : State :=
  let s := setRollEnd false s
  if s.media.rollState = .verified ∨ s.media.rollState = .unverified then finish (rollEnds s)
  else refreshPanel (rollNotice (.sensorRollEnd false) s)

def execRollEnd (s : State) : Result := .next (rollEndTrips s)

/-- The roll-end sensor changes back to showing media (R84). -/
def execRollEndSensorShowsMedia (s : State) : Result :=
  .next (refreshPanel (rollNotice (.sensorRollEnd true) (setRollEnd true s)))

/-- The flap-settled input asserts: the chute stage ends (R91). -/
def flapSettles (s : State) : State :=
  let s := flapRead { s with inputs := { s.inputs with flapSettled := true } }
  if s.cutter.state = .settingChute then fireBlade s else s

def execFlapSettled (s : State) : Result := .next (flapSettles s)

/-- The settle limit expires: the sequence fails at stage FLAP (R91). -/
def settleExpires (s : State) : State :=
  match s.cutter.settleDeadline with
  | none => s
  | some d => finish (failCut .flap (timeTo d s))

def execSettleLimitExpiry (s : State) : Result := .next (settleExpires s)

/-- The home input takes a level. -/
def setHome (atRest : Bool) (s : State) : State := { s with inputs := { s.inputs with bladeHome := atRest } }

/-- The home input rises: a cut whose blade has left rest completes (R92). -/
def bladeReturns (s : State) : State :=
  let s := setHome true s
  if s.cutter.state = .cutting ∧ s.cutter.leftRest then finish (completeCut s) else s

def execBladeHome (s : State) : Result := .next (bladeReturns s)

/-- The blade limit expires: the sequence fails at stage BLADE (R92). -/
def bladeExpires (s : State) : State :=
  match s.cutter.bladeDeadline with
  | none => s
  | some d => finish (failCut .blade (timeTo d s))

def execBladeLimitExpiry (s : State) : Result := .next (bladeExpires s)

/-- The home input falls; in the blade stage the blade has left rest (R92). -/
def bladeLeaves (s : State) : State :=
  let s := setHome false s
  if s.cutter.state = .cutting then s.mapCutter fun k => { k with leftRest := true } else s

def execBladeLeavesRest (s : State) : Result := .next (bladeLeaves s)

end Sys2Proof.Machine
end

