-- ==== Sys2Proof/Machine/MediaRequests.lean ====
section
/-! DEFINITION. ROLL_LOAD, ROLL_CONFIRM, MOVE, ROLL_QUERY and CLEAR_FAULT naming the transport (chapter 4). -/

namespace Sys2Proof.Machine

set_option Elab.async false

open Sys2Proof

/-- A print is past READY or being positioned, or a feed is in progress (R70, R72). -/
def State.rollInUse (s : State) : Bool :=
  s.queue.prints.any (·.onRoll) || s.positioned.isSome || s.feeding

/-- The list is emptied and its server cuts reported as dropped (R76, R102). -/
def emptyList (reason : DropReason) (s : State) : State :=
  reportDropped reason (s.media.stations.filter fun e => e.kind == .cutServer) (unlist (fun _ => true) s)

/-- The new L, H and A that a load or a confirmation replies, before a start that it makes possible (R70, R72; log
entry 8). -/
def geometryReply (s : State) : ReplyFields :=
  .rollGeometry s.media.roll.tail s.media.roll.head s.media.roll.alloc

/-- The roll record becomes VERIFIED with the given parts and an ARMED flag (R70, R72). -/
def setRoll (r : RollGeometry) (s : State) : State :=
  s.mapMedia fun m => { m with rollState := .verified, roll := r, lowFlag := .armed }

/-- What follows a new base: roll-low flag, list, checkpoint, re-check, release checks and notice (R70, R72, R88). The
flag acts on the new L and A at a load too, so a roll loaded already low sends LOW (log entry 36). -/
def newBase (reason : DropReason) (news : RollNews) (s : State) : State :=
  rollNotice news (releaseChecks (rollRecheck (saveRoll (emptyList reason (rollLowCheck s)))))

/-- The record a load writes (R70). -/
def loadedRoll (mediaType width length serial : Nat) : RollGeometry :=
  { mediaType := mediaType, width := width, serial := serial, tail := 1800 + length * 10, head := 1800, alloc := 1830
    lastCut := 1800 }

/-- ROLL_LOAD (R70). -/
def rollLoadRequest (tag mediaType width length serial : Nat) (s : State) : State :=
  if !rollInRange mediaType width length then reply tag .range 0x20 .none s
  else if !s.inputs.rollPresent ∨ !s.inputs.rollEndMedia ∨ s.media.state = .faulted then reply tag .state 0x20 .none s
  else if s.rollInUse then reply tag .busy 0x20 .none s
  else
    let s := newBase .rollLoad (.loaded mediaType width serial) (setRoll (loadedRoll mediaType width length serial) s)
    reply tag .ok 0x20 (geometryReply s) (finish (haltUpdate s))

def execRollLoad (tag mediaType width length serial : Nat) (s : State) : Result :=
  .next (request tag 0x20 .operator (rollLoadRequest tag mediaType width length serial) s)

/-- The record a confirmation rebases: L − H is kept, and H, at most L + 1800, may lie beyond L (R72, R78, R81; log
entry 30). -/
def rebasedRoll (r : RollGeometry) : RollGeometry :=
  { r with tail := 1800 + r.tail - r.head, head := 1800, alloc := 1830, lastCut := 1800 }

/-- ROLL_CONFIRM (R72). -/
def rollConfirmRequest (tag : Nat) (s : State) : State :=
  if s.media.rollState ≠ .unverified ∨ !s.inputs.rollPresent ∨ s.media.state = .faulted then
    reply tag .state 0x21 .none s
  else if s.rollInUse then reply tag .busy 0x21 .none s
  else
    let r := s.media.roll
    let s := newBase .rollConfirm (.confirmed r.mediaType r.width r.serial) (setRoll (rebasedRoll r) s)
    reply tag .ok 0x21 (geometryReply s) (finish (haltUpdate s))

def execRollConfirm (tag : Nat) (s : State) : Result :=
  .next (request tag 0x21 .operator (rollConfirmRequest tag) s)

/-- MOVE (R81). -/
def moveRequest (tag distance : Nat) (s : State) : State :=
  let target := s.media.roll.head + distance
  if s.media.rollState = .none ∨ s.media.state = .faulted then reply tag .state 0x22 .none s
  else if s.media.hold ≠ .none then reply tag .held 0x22 .none s
  else if s.feeding ∨ s.ownerlessStop then reply tag .busy 0x22 .none s
  else if distance = 0 ∨ s.media.roll.tail + Config.cutterOffset < target then reply tag .range 0x22 .none s
  else reply tag .ok 0x22 (.target target) (finish (beginFeed .move target s))

def execMove (tag distance : Nat) (s : State) : Result :=
  .next (request tag 0x22 .operator (moveRequest tag distance) s)

/-- The reply of ROLL_QUERY (R87): with no roll, the roll state stands alone for the record. -/
def rollReport (s : State) : RollReport :=
  { rollState := s.media.rollState
    roll := if s.media.rollState = .none then none else some s.media.roll
    lowFlag := if s.media.rollState = .none then none else some s.media.lowFlag
    transport := s.media.state
    feed := s.media.feed.map fun f => (f.owner, f.target)
    hold := s.media.hold, cause := s.media.cause
    headPoint := s.media.movement.map fun m => m.headPoint s.clock.now
    rollPresent := s.inputs.rollPresent, rollEndMedia := s.inputs.rollEndMedia
    stations := s.media.stations
    tailOut := (s.queue.prints.filter (·.awaitingTailOut)).map (·.handle) }

/-- ROLL_QUERY (R87). -/
def execRollQuery (tag : Nat) (s : State) : Result :=
  .next (request tag 0x23 .operator (fun s => reply tag .ok 0x23 (.roll (rollReport s)) s) s)

/-- The cutter's latch is cleared and its current entry dropped (R97). -/
def clearCutter (s : State) : State :=
  s.mapCutter fun k => { k with state := .idle, current := none, chute := none, latch := none }

/-- A VERIFIED roll becomes UNVERIFIED, and the roll checkpoint is written (R69, R83, R206). -/
def unverifyRoll (s : State) : State :=
  saveRoll (s.mapMedia fun m =>
    { m with rollState := if m.rollState = .verified then .unverified else m.rollState })

/-- The transport's fault is cleared (R83, R97). -/
def clearTransport (s : State) : State :=
  let s := if s.media.cause = some .cut then clearCutter s else s
  let s := unverifyRoll (s.mapMedia fun m => { m with state := restState m, cause := none })
  releaseChecks (haltUpdate (rollNotice .faultCleared s))

/-- CLEAR_FAULT naming the transport (R83). The reply is sent once a stop it makes possible has begun. -/
def clearTransportRequest (tag : Nat) (s : State) : State :=
  if s.media.state ≠ .faulted then reply tag .state 0x09 .none s
  else if s.workRunning then reply tag .busy 0x09 .none s
  else
    let s := clearTransport s
    reply tag .ok 0x09 (.rollState s.media.rollState) (finish (stopIfHere s))

def execClearFaultTransport (tag : Nat) (s : State) : Result :=
  .next (request tag 0x09 .operator (clearTransportRequest tag) s)

end Sys2Proof.Machine
end

