-- ==== Sys2Proof/Machine/PrintRequests.lean ====
section
/-! DEFINITION. PRINT_SUBMIT, PRINT_RELEASE, PRINT_CANCEL and PRINT_QUERY (chapter 1). -/

namespace Sys2Proof.Machine

set_option Elab.async false

open Sys2Proof

/-- The handle after a given one: it wraps from 255 to 1 (R4). -/
def nextHandle (h : Nat) : Nat := if h = 255 then 1 else h + 1

/-- The first handle after a given one that no record holds; the search ends within 9 values (R4). -/
def freeHandle (used : List Nat) : Nat → Nat → Nat
  | 0, h => nextHandle h
  | n + 1, h => if used.contains (nextHandle h) then freeHandle used n (nextHandle h) else nextHandle h

/-- A new print record (R1, R5): an EDITION or ARTIST_PROOF print takes the edition's reference set. -/
def newPrint (handle : Nat) (kind : PrintKind) (d : PrintDescription) (refSet : Option Nat) : PrintRecord :=
  { handle := handle, jobTag := d.jobTag, kind := kind, editionId := d.editionId, refSet := refSet
    mediaType := d.mediaType, imageWidth := d.imageWidth, spanLength := d.spanLength, estimates := d.estimates
    held := d.hold, state := .waiting, heldFor := [], reservation := noReservation, span := none, snapshot := none
    consumed := Vector.replicate 12 0, numerators := Vector.replicate 12 0, overdraw := false, swathCount := 0
    lastSwath := none, largestGap := 0, verdict := none, largestDE := none, outcome := none, number := none
    awaitingTailOut := false }

/-- The record joins the queue: handle, submission counter, PRINT notice, release checks (R3 to R5). -/
def enqueue (kind : PrintKind) (d : PrintDescription) (refSet : Option Nat) (s : State) : State :=
  let h := freeHandle (s.queue.prints.map (·.handle)) 9 s.queue.lastHandle
  let s := { s with queue := { s.queue with
    prints := s.queue.prints ++ [newPrint h kind d refSet]
    submissions := (s.queue.submissions + 1) % Config.size32
    lastHandle := h } }
  releaseChecks (printNotice h (.waiting []) s)

/-- The reply of a submission, from the state its release checks left (R5). -/
def submittedReply (s : State) : ReplyFields :=
  match s.findPrint s.queue.lastHandle with
  | some p => .submitted p.handle s.queue.submissions p.state p.heldFor
  | none => .none

/-- PRINT_SUBMIT's tests, in order, and its effect (R5). -/
def submitRequest (tag : Nat) (d : PrintDescription) (s : State) : State :=
  let carryOut (kind : PrintKind) (refSet : Option Nat) : State :=
    let s := enqueue kind d refSet s
    reply tag .ok 0x10 (submittedReply s) (finish s)
  if Config.queueRoom ≤ s.queue.prints.length then reply tag .full 0x10 .none s
  else if !descriptionInRange d then reply tag .range 0x10 .none s
  else
    match printKindOf d.kindCode, d.editionId with
    | some k, some id =>
      match s.findEdition id with
      | none => reply tag .notFound 0x10 .none s
      | some e =>
        if e.mediaType = d.mediaType then carryOut k (some e.refSet) else reply tag .range 0x10 .none s
    | some k, none => carryOut k d.refSet
    | none, _ => reply tag .range 0x10 .none s

/-- PRINT_SUBMIT (R5). -/
def execPrintSubmit (tag : Nat) (d : PrintDescription) (s : State) : Result :=
  .next (request tag 0x10 .operator (submitRequest tag d) s)

/-- The reply of a release, from the state its release checks left (R9). -/
def releasedReply (h : Nat) (s : State) : ReplyFields :=
  match s.findPrint h with
  | some p => .released p.state p.heldFor
  | none => .none

/-- PRINT_RELEASE (R9). -/
def releaseRequest (tag h : Nat) (s : State) : State :=
  match s.findPrint h with
  | none => reply tag .notFound 0x11 .none s
  | some p =>
    if p.state = .waiting then
      let s := releaseChecks (s.mapPrint h fun q => { q with held := false })
      reply tag .ok 0x11 (releasedReply h s) (finish s)
    else reply tag .state 0x11 .none s

def execPrintRelease (tag handle : Nat) (s : State) : Result :=
  .next (request tag 0x11 .operator (releaseRequest tag handle) s)

/-- A WAITING or READY print is removed: a READY one gives back its start, its ink, its place in the edition and in the
cost log (R22, R206). -/
def removePrint (p : PrintRecord) (s : State) : State :=
  let s := if p.state = .ready then (abandonIfPositioned p.handle s).lowerInFlight p else s
  let s := raise (.print p.handle p.jobTag p.kind .removed) (s.dropPrint p.handle)
  releaseChecks (if p.state = .ready then earlyFullCheck s else s)

/-- PRINT_CANCEL (R22). -/
def cancelRequest (tag h : Nat) (s : State) : State :=
  match s.findPrint h with
  | none => reply tag .notFound 0x12 .none s
  | some p =>
    match p.state with
    | .waiting | .ready => reply tag .ok 0x12 .cancelRemoved (finish (removePrint p s))
    | .active => reply tag .ok 0x12 .cancelSpoiled (finish (spoilActive p true s))
    | .travel | .scan | .separate => reply tag .tooLate 0x12 .none s

def execPrintCancel (tag handle : Nat) (s : State) : Result :=
  .next (request tag 0x12 .operator (cancelRequest tag handle) s)

/-- A print's place in a list, counted from 1. -/
def placeOf (h : Nat) (order : List Nat) : Option Nat :=
  let i := order.findIdx fun r => r == h
  if i < order.length then some (i + 1) else none

/-- One line of PRINT_QUERY (R23). -/
def printLine (s : State) (p : PrintRecord) : PrintLine :=
  ⟨p.handle, p.jobTag, p.kind, p.state, p.held, placeOf p.handle s.queue.readyOrder⟩

/-- A print's record as PRINT_QUERY replies it (R1, R23). -/
def printReport (p : PrintRecord) : PrintReport :=
  { handle := p.handle, jobTag := p.jobTag, kind := p.kind, editionId := p.editionId, refSet := p.refSet
    mediaType := p.mediaType, imageWidth := p.imageWidth, spanLength := p.spanLength, estimates := p.estimates
    held := p.held, state := p.state, heldFor := if p.state = .waiting then some p.heldFor else none
    reservation := p.reservation, span := p.span, consumed := p.consumed, numerators := p.numerators
    overdraw := p.overdraw, swathCount := p.swathCount, lastSwath := p.lastSwath
    gapSeconds := p.largestGap / 1000, verdict := p.verdict, largestDE := p.largestDE, outcome := p.outcome
    number := p.number }

/-- PRINT_QUERY (R23). -/
def printQueryReply (tag : Nat) (handle : Option Nat) (s : State) : State :=
  match handle with
  | none => reply tag .ok 0x13 (.prints (s.queue.prints.map (printLine s))) s
  | some h =>
    match s.findPrint h with
    | none => reply tag .notFound 0x13 .none s
    | some p => reply tag .ok 0x13 (.print (printReport p)) s

def execPrintQuery (tag : Nat) (handle : Option Nat) (s : State) : Result :=
  .next (request tag 0x13 .operator (printQueryReply tag handle) s)

end Sys2Proof.Machine
end

