-- ==== Sys2Proof/Machine/Resets.lean ====
section
/-! DEFINITION. Power-on, the RESET request and FACTORY_RESTORE (chapter 11, R48, R99, R119, R146). -/

namespace Sys2Proof.Machine

set_option Elab.async false

open Sys2Proof

/-! ## The RESET request (R206, R207) -/

/-- Pass 1: a WAITING or READY print is removed, and what that lets begin begins (R206). -/
def resetRemove (s : State) (h : Nat) : State :=
  match s.findPrint h with
  | none => s
  | some p =>
    match p.state with
    | .waiting | .ready => settle (removePrint p s)
    | _ => s

/-- Pass 2: the ACTIVE print is spoiled and PRINT_STOP sent (R206). -/
def resetSpoil (s : State) : State :=
  match s.active with
  | some p => spoilActive p true s
  | none => s

/-- Pass 3: every print left is closed with CUT_NONE, in submission order (R206). -/
def resetClose (s : State) : State := (s.queue.prints.map (·.handle)).foldl (fun t h => closePrint h true t) s

/-- A scan in flight will be discarded at its end (R119). -/
def discardScan (u : ColourUnit) : ColourUnit :=
  match u.spectro with
  | .scanning tag began deadline stale job _ => { u with spectro := .scanning tag began deadline stale job true }
  | _ => u

/-- A PUMPING refill's pumped volume is taken (R48). -/
def resetTake (s : State) (c : Chan) : State :=
  if (s.channel c).refill = .pumping then updateIndication c (take c s) else s

/-- A PUMPING or SUSPENDED refill ends; the installed flag stays as it is (R48). -/
def resetEnd (s : State) (c : Chan) : State :=
  if (s.channel c).refill = .pumping ∨ (s.channel c).refill = .suspended then setRefill c .idle s else s

/-- The refills at the RESET request (R48). -/
def resetRefills (s : State) : State :=
  channelList.foldl (fun t c => reconsider c t) (channelList.foldl resetEnd (channelList.foldl resetTake s))

/-- Step 1: the list is emptied, and a feed in progress is told to end (R207). -/
def resetList (s : State) : State :=
  (emptyList .reset s).mapMedia fun m => { m with feed := m.feed.map fun f => { f with ending := true } }

/-- Step 2: a VERIFIED roll becomes UNVERIFIED, the roll checkpoint is written, and a notice reports the change (R207). -/
def resetRoll (s : State) : State :=
  let s' := unverifyRoll s
  if s.media.rollState = .verified then rollNotice (.state .unverified) s' else s'

/-- Step 4: the flush wait, the pending scan and the last sequence (R207). -/
def resetTimers (s : State) : State :=
  { s with
    queue := { s.queue with flushDeadline := none, flushDue := false }
    colour := { s.colour with pending := none }
    meter := { s.meter with lastSequence := none } }

/-- The steps of the RESET request once the queue is empty (R207). -/
def resetComplete (s : State) : State :=
  let s := resetTimers (resetRefills (resetRoll (resetList s)))
  (endIdleStop s).mapControl fun k => { k with level := .operator }

/-- RESET (R206, R207). -/
def resetRequest (tag : Nat) (s : State) : State :=
  let records := s.cost.log.length
  let kept := (s.queue.prints.map (·.handle)).foldl resetRemove s
  let spoiled := (resetSpoil kept).mapColour discardScan
  let s' := finish (haltUpdate (resetComplete (resetClose spoiled)))
  reply tag .ok 0x07
    (.reset (s.queue.prints.length - kept.queue.prints.length) kept.queue.prints.length
      ((s'.cost.log.drop records).map (·.sequence))) s'

def execReset (tag : Nat) (s : State) : Result := .next (request tag 0x07 .operator (resetRequest tag) s)

/-! ## FACTORY_RESTORE (R208) -/

/-- The factory settings (R188); passwords 0 (R187). -/
def factoryControl (k : ControlLink) : ControlLink :=
  { k with
    studioPassword := 0, servicePassword := 0, inkMargin := 5, policy := .reject, lamps := factoryLamps
    attnRouting := .all
    notices := Vector.ofFn fun i : Fin 12 => { k.notices[i] with mask := false } }

/-- The factory tables (R208); the calibration retry timer is stopped, and nothing is sent to the head (R112, R114; log
entry 32). -/
def factoryTables (s : State) : State :=
  { s with
    meter := { s.meter with
      dropTable := factoryDropTable, trims := Vector.replicate 12 4096, manualOn := false, manualRow := 12 }
    cost := { s.cost with tariff := Vector.replicate 32 0, media := Vector.replicate 16 .blank }
    control := factoryControl s.control
    colour := { s.colour with retryDeadline := none }
    engine := { s.engine with haltRouting := .empty }
    registry := { s.registry with table := [] } }

/-- How many sets are FIXED. -/
def ColourUnit.fixedCount (u : ColourUnit) : Nat := (u.sets.toList.filter fun r => r.mode == .fixed).length

/-- Each maskable kind with a pending count is flushed, in the order of R184; a deferred FRAME_FAULT, which has no mask to
clear, waits for the send list (R183, R186; log entry 40). -/
def flushUnmasked (s : State) : State := (noticeKinds.take 11).foldl (fun t kind => flushKind false kind t) s

/-- FACTORY_RESTORE (R208). -/
def factoryRequest (tag : Nat) (s : State) : State :=
  if s.queue.prints ≠ [] ∨ s.feeding ∨ s.ownerlessStop then reply tag .busy 0x08 .none s
  else
    let s' := releaseSets (factoryTables s)
    reply tag .ok 0x08 (.restored s.registry.table.length (s.colour.fixedCount - s'.colour.fixedCount))
      (finish (releaseChecks (haltUpdate (flushUnmasked s'))))

def execFactoryRestore (tag : Nat) (s : State) : Result :=
  .next (request tag 0x08 .service (factoryRequest tag) s)

/-! ## Power-on (R203 to R205) -/

/-- A channel record when power is applied: its colour code from the store, its ink from the checkpoint (R25). -/
def restoredChannel (ch : Channel) (k : InkSaved) : Channel :=
  { colourCode := ch.colourCode, slot := .empty, cartridge := none, level := k.level, parcels := k.parcels
    lastPrice := k.lastPrice, refill := .idle, job := none, indication := .out, installed := false, pumpRun := false }

/-- An edition entry when power is applied (R128). -/
def restoredEdition (e : Edition) : Edition := { e with inFlight := 0, apInFlight := 0 }

/-- The control link when power is applied (R183, R185, R187). -/
def restoredControl (k : ControlLink) : ControlLink :=
  { k with
    level := .operator
    notices := Vector.ofFn fun i : Fin 12 => { NoticeState.quiet with mask := (k.notices[i]).mask }
    lit := Vector.replicate 4 false, attn := false, sendList := [], receiveList := [] }

/-- The colour check unit when power is applied (R112, R113, R127). -/
def restoredColour (u : ColourUnit) : ColourUnit :=
  { u with
    calValid := false, scanCount := 0, spectro := .idle, lastTag := 0, pending := none, retryDeadline := none
    lastScan := none, sent := [] }

/-- Steps 1 to 4 of R203: volatile state, stored tables, the ink checkpoint, and the refill markers settled. The
timebase counts from power-on (R191). -/
def powerVolatile (levels : SensorLevels) (s : State) : State :=
  { pending := s.pending
    startUp := .restoring
    clock := ⟨0, none, none⟩
    inputs := levels
    queue := .initial
    ink := { s.ink with
      channels := Vector.ofFn fun c : Chan => restoredChannel (s.channel c) s.store.ink[c]
      tagQueue := [], tagDeadline := none }
    meter := { s.meter with
      residues := Vector.ofFn fun c : Chan => (s.store.ink[c]).residue
      lastRow := none, lastSequence := none }
    media := .initial
    cutter := { Cutter.initial with flapReads := s.cutter.flapReads + 1 }
    colour := restoredColour s.colour
    registry := { s.registry with table := s.registry.table.map restoredEdition }
    cost := s.cost
    engine := .initial s.engine.haltRouting
    control := restoredControl s.control
    links := ⟨.idle, .idle, .idle⟩
    store := { s.store with refills := Vector.replicate 12 false } }

/-- The roll that comes back from the checkpoint, if one does (R205). -/
def restorableRoll (s : State) : Option RollGeometry :=
  match s.store.roll with
  | none => none
  | some r => if s.inputs.rollPresent ∧ r.state ≠ .ended then some r.roll else none

/-- The roll is restored (R205). -/
def restoreRoll (s : State) : State :=
  match restorableRoll s with
  | none => s
  | some r =>
    let s := s.mapMedia fun m => { m with rollState := .unverified, roll := r }
    if s.inputs.rollEndMedia then s else rollEnds s

/-- The roll-low and early-full flags, worked out without a notice (R203 step 6). The roll-low flag of a roll that comes
up ENDED is worked out from L and A as any other, after the SENT of its roll end (R84, R86): the model's choice, log
entry 45. -/
def workOutFlags (s : State) : State :=
  { s with
    media := { s.media with lowFlag := if s.media.low then .sent else .armed }
    cost := { s.cost with earlyFull := if s.freeSpace ≤ 8 then .sent else .armed } }

/-- A slot is examined (R203 step 7). -/
def examineSlot (s : State) (c : Chan) : State :=
  if s.inputs.cartridge[c] then queueTransfer (.read c) (s.mapChannel c fun ch => { ch with slot := .reading })
  else reconsider c s

/-- An indication is worked out without a notice (R45). -/
def workOutIndication (s : State) (c : Chan) : State := s.mapChannel c fun ch => { ch with indication := ch.worked }

/-- HALT is worked out once the slots have been read (R173, R203 step 7). -/
def awaitReads (s : State) : State :=
  let slots := channelList.filter fun c => s.inputs.cartridge[c]
  if slots = [] then haltUpdate { s with startUp := .running } else { s with startUp := .reading slots }

/-- Power is applied (R203). -/
def powerOn (levels : SensorLevels) (s : State) : State :=
  let s := workOutFlags (restoreRoll (reconcileMarker (powerVolatile levels s)))
  let s := channelList.foldl workOutIndication (channelList.foldl examineSlot s)
  autoCalibrate (refreshPanel (awaitReads s))

def execPowerOn (levels : SensorLevels) (s : State) : Result := .next (powerOn levels s)

end Sys2Proof.Machine
end

