-- ==== Sys2Proof/Machine/Dispatch.lean ====
section
/-! DEFINITION. Which meaning each command has. -/

namespace Sys2Proof.Machine

open Sys2Proof

/-- A command's effect on everything but the queue of waiting commands. -/
def exec (i : Instr) (s : State) : Host.Outcome State Fault Refusal :=
  match i with
  | .powerOn levels => Sys2Proof.Machine.execPowerOn levels s
  | .access tag level password => Sys2Proof.Machine.execAccess tag level password s
  | .passwordSet tag level password => Sys2Proof.Machine.execPasswordSet tag level password s
  | .ident tag clear => Sys2Proof.Machine.execIdent tag clear s
  | .date tag day => Sys2Proof.Machine.execDate tag day s
  | .setInkMargin tag value => Sys2Proof.Machine.execSetInkMargin tag value s
  | .setUncheckedPolicy tag value => Sys2Proof.Machine.execSetUncheckedPolicy tag value s
  | .setNoticeMask tag value => Sys2Proof.Machine.execSetNoticeMask tag value s
  | .setLamp tag value => Sys2Proof.Machine.execSetLamp tag value s
  | .setHaltRouting tag value => Sys2Proof.Machine.execSetHaltRouting tag value s
  | .setAttnRouting tag value => Sys2Proof.Machine.execSetAttnRouting tag value s
  | .settingsQuery tag => Sys2Proof.Machine.execSettingsQuery tag s
  | .reset tag => Sys2Proof.Machine.execReset tag s
  | .factoryRestore tag => Sys2Proof.Machine.execFactoryRestore tag s
  | .clearFaultChannel tag channel => Sys2Proof.Machine.execClearFaultChannel tag channel s
  | .clearFaultTransport tag => Sys2Proof.Machine.execClearFaultTransport tag s
  | .clearFaultVerdictLatch tag => Sys2Proof.Machine.execClearFaultVerdictLatch tag s
  | .printSubmit tag description => Sys2Proof.Machine.execPrintSubmit tag description s
  | .printRelease tag handle => Sys2Proof.Machine.execPrintRelease tag handle s
  | .printCancel tag handle => Sys2Proof.Machine.execPrintCancel tag handle s
  | .printQuery tag handle => Sys2Proof.Machine.execPrintQuery tag handle s
  | .channelColour tag channel code => Sys2Proof.Machine.execChannelColour tag channel code s
  | .inkQuery tag channel => Sys2Proof.Machine.execInkQuery tag channel s
  | .trimSet tag channel trim => Sys2Proof.Machine.execTrimSet tag channel trim s
  | .dropRowSet tag row small medium large => Sys2Proof.Machine.execDropRowSet tag row small medium large s
  | .manualModeSet tag mode row => Sys2Proof.Machine.execManualModeSet tag mode row s
  | .meterQuery tag channel => Sys2Proof.Machine.execMeterQuery tag channel s
  | .rollLoad tag mediaType width length serial => Sys2Proof.Machine.execRollLoad tag mediaType width length serial s
  | .rollConfirm tag => Sys2Proof.Machine.execRollConfirm tag s
  | .move tag distance => Sys2Proof.Machine.execMove tag distance s
  | .rollQuery tag => Sys2Proof.Machine.execRollQuery tag s
  | .cutAt tag position chute => Sys2Proof.Machine.execCutAt tag position chute s
  | .cutNow tag chute => Sys2Proof.Machine.execCutNow tag chute s
  | .cutQuery tag => Sys2Proof.Machine.execCutQuery tag s
  | .referenceLoad tag index count patches warn fail => Sys2Proof.Machine.execReferenceLoad tag index count patches warn fail s
  | .referenceSeal tag index => Sys2Proof.Machine.execReferenceSeal tag index s
  | .referenceQuery tag index => Sys2Proof.Machine.execReferenceQuery tag index s
  | .calibrate tag => Sys2Proof.Machine.execCalibrate tag s
  | .colourQuery tag => Sys2Proof.Machine.execColourQuery tag s
  | .editionOpen tag id title limit apLimit refSet mediaType => Sys2Proof.Machine.execEditionOpen tag id title limit apLimit refSet mediaType s
  | .editionHold tag id => Sys2Proof.Machine.execEditionHold tag id s
  | .editionResume tag id => Sys2Proof.Machine.execEditionResume tag id s
  | .editionClose tag id => Sys2Proof.Machine.execEditionClose tag id s
  | .editionArchive tag id => Sys2Proof.Machine.execEditionArchive tag id s
  | .editionQuery tag id => Sys2Proof.Machine.execEditionQuery tag id s
  | .closedQuery tag start => Sys2Proof.Machine.execClosedQuery tag start s
  | .tariffSet tag lot price => Sys2Proof.Machine.execTariffSet tag lot price s
  | .mediaSet tag mediaType name price adjustment => Sys2Proof.Machine.execMediaSet tag mediaType name price adjustment s
  | .costRead tag => Sys2Proof.Machine.execCostRead tag s
  | .costDrop tag sequence => Sys2Proof.Machine.execCostDrop tag sequence s
  | .priceQueryTariff tag => Sys2Proof.Machine.execPriceQueryTariff tag s
  | .priceQueryMedia tag => Sys2Proof.Machine.execPriceQueryMedia tag s
  | .priceQueryLog tag => Sys2Proof.Machine.execPriceQueryLog tag s
  | .engineQuery tag => Sys2Proof.Machine.execEngineQuery tag s
  | .unknownKind tag kind => Sys2Proof.Machine.execUnknownKind tag kind s
  | .frameCheckFault link => Sys2Proof.Machine.execFrameCheckFault link s
  | .frameLengthFault link => Sys2Proof.Machine.execFrameLengthFault link s
  | .gapTimeout link => Sys2Proof.Machine.execGapTimeout link s
  | .overrun frame => Sys2Proof.Machine.execOverrun frame s
  | .sendListDrain sent => Sys2Proof.Machine.execSendListDrain sent s
  | .engineReady tag => Sys2Proof.Machine.execEngineReady tag s
  | .swath tag report => Sys2Proof.Machine.execSwath tag report s
  | .feedAsk tag handle distance => Sys2Proof.Machine.execFeedAsk tag handle distance s
  | .printDone tag handle => Sys2Proof.Machine.execPrintDone tag handle s
  | .printFail tag handle cause => Sys2Proof.Machine.execPrintFail tag handle cause s
  | .engineUnknownKind tag kind => Sys2Proof.Machine.execEngineUnknownKind tag kind s
  | .silenceTimeout => Sys2Proof.Machine.execSilenceTimeout s
  | .calibrated tag => Sys2Proof.Machine.execCalibrated tag s
  | .calibrationFault tag cause => Sys2Proof.Machine.execCalibrationFault tag cause s
  | .calibrationTimeout => Sys2Proof.Machine.execCalibrationTimeout s
  | .calibrationRetryExpiry => Sys2Proof.Machine.execCalibrationRetryExpiry s
  | .readings tag list => Sys2Proof.Machine.execReadings tag list s
  | .scanFault tag cause => Sys2Proof.Machine.execScanFault tag cause s
  | .scanTimeout => Sys2Proof.Machine.execScanTimeout s
  | .spectroFrameIgnored frame => Sys2Proof.Machine.execSpectroFrameIgnored frame s
  | .flushWaitExpiry => Sys2Proof.Machine.execFlushWaitExpiry s
  | .cartridgeInserted slot => Sys2Proof.Machine.execCartridgeInserted slot s
  | .cartridgeRemoved slot => Sys2Proof.Machine.execCartridgeRemoved slot s
  | .tagReadDone result => Sys2Proof.Machine.execTagReadDone result s
  | .tagWriteDone ok => Sys2Proof.Machine.execTagWriteDone ok s
  | .tagTransferTimeout => Sys2Proof.Machine.execTagTransferTimeout s
  | .flowPulse channel => Sys2Proof.Machine.execFlowPulse channel s
  | .refillTimeout channel => Sys2Proof.Machine.execRefillTimeout channel s
  | .drySense channel => Sys2Proof.Machine.execDrySense channel s
  | .driverArrival => Sys2Proof.Machine.execDriverArrival s
  | .movementTimeout => Sys2Proof.Machine.execMovementTimeout s
  | .driverFault => Sys2Proof.Machine.execDriverFault s
  | .rollPresentChange level => Sys2Proof.Machine.execRollPresentChange level s
  | .rollEnd => Sys2Proof.Machine.execRollEnd s
  | .flapSettled => Sys2Proof.Machine.execFlapSettled s
  | .settleLimitExpiry => Sys2Proof.Machine.execSettleLimitExpiry s
  | .bladeHome => Sys2Proof.Machine.execBladeHome s
  | .bladeLimitExpiry => Sys2Proof.Machine.execBladeLimitExpiry s
  | .blinkPeriod => Sys2Proof.Machine.execBlinkPeriod s
  | .dayTimerExpiry => Sys2Proof.Machine.execDayTimerExpiry s
  | .rollEndSensorShowsMedia => Sys2Proof.Machine.execRollEndSensorShowsMedia s
  | .linkByteReceived link byte => Sys2Proof.Machine.execLinkByteReceived link byte s
  | .bladeLeavesRest => Sys2Proof.Machine.execBladeLeavesRest s

end Sys2Proof.Machine
end

