-- ==== Sys2Proof/Machine/Activity.lean ====
section
/-! DEFINITION. What the part does while no command waits (log entry 3): it handles the oldest frame of the receive
list, or takes a timer that has run out, or lets a millisecond pass. -/

namespace Sys2Proof.Machine

set_option Elab.async false

open Sys2Proof

/-- The oldest frame of the receive list is handled (R181, R182). -/
def handleFrame (f : Frame) (s : State) : Result :=
  match decodeControl f with
  | .command c => exec c s
  | .malformed tag kind => .next (reply tag .malformed kind .none s)
  | .outsideList tag kind level => .next (request tag kind level (reply tag .range kind .none) s)

/-- The timeout of the command in flight to the spectro head, and what its expiry is (R112). -/
def spectroTimer (u : ColourUnit) : Option Nat × Instr :=
  match u.spectro with
  | .idle => (none, .scanTimeout)
  | .calibrating _ _ deadline _ => (some deadline, .calibrationTimeout)
  | .scanning _ _ deadline _ _ _ => (some deadline, .scanTimeout)

/-- Every timer with its deadline, and the command that is its expiry. -/
def timers (s : State) : List (Option Nat × Instr) :=
  [(s.links.control.gapDeadline, .gapTimeout .control), (s.links.engine.gapDeadline, .gapTimeout .engine),
   (s.links.spectro.gapDeadline, .gapTimeout .spectro), (s.media.movement.map (·.deadline), .movementTimeout),
   (s.cutter.settleDeadline, .settleLimitExpiry), (s.cutter.bladeDeadline, .bladeLimitExpiry),
   (s.engine.silence, .silenceTimeout), spectroTimer s.colour, (s.colour.retryDeadline, .calibrationRetryExpiry),
   (s.ink.tagDeadline, .tagTransferTimeout)] ++
  (channelList.map fun c => ((s.channel c).job.bind (·.deadline), .refillTimeout c)) ++
  [(s.queue.flushDeadline, .flushWaitExpiry), (s.clock.dayDeadline, .dayTimerExpiry)]

/-- A timer has run out. -/
def ranOut (now : Nat) (t : Option Nat × Instr) : Bool := t.1.any fun d => decide (d ≤ now)

/-- The expiry of the first timer that has run out. -/
def dueExpiry (s : State) : Option Instr := ((timers s).find? (ranOut s.clock.now)).map (·.2)

/-- A millisecond passes; at a boundary of the blink timebase the lamps follow (R191). -/
def tick (s : State) : Result :=
  if s.clock.now % 125 = 124 then exec .blinkPeriod s else .next (timeTo (s.clock.now + 1) s)

/-- The part with power, and no command waiting. -/
def running (s : State) : Result :=
  match s.control.receiveList with
  | f :: rest => handleFrame f (s.mapControl fun k => { k with receiveList := rest })
  | [] =>
    match dueExpiry s with
    | some c => exec c s
    | none => tick s

/-- With no command waiting: nothing before power is applied, and then what the part does on its own. -/
def idle (s : State) : Result :=
  match s.startUp with
  | .restoring => .next s
  | _ => running s

end Sys2Proof.Machine
end

