-- ==== Sys2Proof/Machine/ControlFrames.lean ====
section
/-! DEFINITION. The bytes of what the part sends on the control link: kinds, tags, the headers of replies and notices,
and the field layouts that section 10.8 gives (R178, R181, R184). A reply or notice whose fields it gives by name alone
has open bytes after its header (log entry 21). -/

namespace Sys2Proof.Machine

set_option Elab.async false

open Sys2Proof

/-! ## Codes (section 10.8) -/

/-- The code of a reply code (section 10.8). -/
def ReplyCode.byte : ReplyCode → Nat
  | .ok => 0x00
  | .access => 0x01
  | .state => 0x02
  | .busy => 0x03
  | .range => 0x04
  | .full => 0x05
  | .notFound => 0x06
  | .exists_ => 0x07
  | .closedId => 0x08
  | .isProtected => 0x09
  | .tooLate => 0x0A
  | .held => 0x0B
  | .denied => 0x0C
  | .mismatch => 0x0D
  | .empty => 0x0E
  | .unknownKind => 0x0F
  | .malformed => 0x10

/-- The frame kind of a reply (section 10.8). -/
def replyKind : Nat := 0x80

/-- The frame kind of a notice kind (section 10.8): 90h to 9Bh in the order of R184. -/
def NoticeKind.byte (k : NoticeKind) : Nat := 0x90 + k.index.val

/-- A print kind's code, as in the print description (section 10.8). -/
def PrintKind.byte : PrintKind → Nat
  | .edition => 0
  | .artistProof => 1
  | .proof => 2

/-- An outcome's code in the cost record (section 10.8). -/
def PrintOutcome.byte : PrintOutcome → Nat
  | .accepted => 0
  | .rejected => 1
  | .spoiled => 2

/-- A verdict's code in the cost record (section 10.8). -/
def Verdict.byte : Verdict → Nat
  | .pass => 0
  | .warn => 1
  | .fail => 2
  | .unchecked => 3

/-- A protection mode's code in the reply of REFERENCE_QUERY (section 10.8). -/
def RefMode.byte : RefMode → Nat
  | .opened => 0
  | .fixed => 1
  | .sealed => 2

/-! ## Layouts (section 10.8) -/

/-- A byte of flags, bit 0 first. -/
def flagBits : List Bool → Nat
  | [] => 0
  | b :: bs => (if b then 1 else 0) + 2 * flagBits bs

/-- The header of a reply: reply code, kind of the request answered. -/
def replyHeader (code : ReplyCode) (kind : Nat) : List Byte := leBytes 1 code.byte ++ leBytes 1 kind

/-- The header of a notice: count, and the flags FLUSHED and DEFERRED. -/
def noticeHeader (count : Nat) (flushed deferred : Bool) : List Byte :=
  leBytes 1 count ++ leBytes 1 (flagBits [flushed, deferred])

/-- Twelve 64-bit values, channel 0 first. -/
def channelBytes (v : PerChan Nat) : List Byte := v.toList.flatMap (leBytes 8)

/-- The 241 bytes of a cost record. A field whose present bit is clear holds 0. -/
def CostRecord.bytes (r : CostRecord) : List Byte :=
  leBytes 4 r.sequence ++ leBytes 1 r.handle ++ leBytes 4 r.jobTag ++ leBytes 1 r.kind.byte ++
  leBytes 1 (flagBits [r.editionId.isSome, r.number.isSome, r.verdict.isSome, r.largestDE.isSome]) ++
  leBytes 1 (flagBits [r.overdraw, r.estimated, r.cutNone]) ++ leBytes 4 (r.editionId.getD 0) ++
  leBytes 1 r.outcome.byte ++ leBytes 2 (r.number.getD 0) ++ leBytes 1 ((r.verdict.map (·.byte)).getD 0) ++
  leBytes 2 (r.largestDE.getD 0) ++ leBytes 1 r.mediaType ++ leBytes 2 r.width ++ leBytes 4 r.spanLength ++
  channelBytes r.consumed ++ channelBytes r.inkCosts ++ leBytes 8 r.mediaCost ++ leBytes 8 r.total ++
  leBytes 4 r.largestGap

/-- The fields of REFERENCE_QUERY's reply: the mode byte, then the set as REFERENCE_LOAD carries it. An empty set has no
tolerances, and their bytes are open (R110; log entry 39). -/
def refSetBytes (index : Nat) (mode : RefMode) (patches : List Patch) (tolerances : Option (Nat × Nat)) : List Byte :=
  let t := tolerances.getD Config.emptyTolerances
  leBytes 1 mode.byte ++ encodeReference index patches.length patches t.1 t.2

/-- OPEN VALUE (log entry 21): the bytes of a reply's fields where section 10.8 names no layout. -/
opaque openReplyBytes : ReplyFields → List Byte

/-- OPEN VALUE (log entry 21): the bytes after a notice's header, for which section 10.8 names no layout. -/
opaque openNoticeBytes : NoticeBody → List Byte

/-- The bytes of a reply's fields. COST_READ's reply carries the cost record; what it carries beside the record (R160)
has no layout and stands after it (log entry 21). -/
def ReplyFields.bytes : ReplyFields → List Byte
  | .none => []
  | .refSet index mode patches tolerances => refSetBytes index mode patches tolerances
  | .costRecord r records free => r.bytes ++ openReplyBytes (.costRecord r records free)
  | fields => openReplyBytes fields

/-! ## Frames -/

/-- A frame of the part as it joins the send list: a reply carries the tag of its request (R181), a notice tag 0
(R184). -/
def ControlFrame.toFrame : ControlFrame → Frame
  | .reply tag code kind fields => mkFrame replyKind tag (replyHeader code kind ++ fields.bytes)
  | .notice count flushed deferred body =>
    mkFrame body.kind.byte 0 (noticeHeader count flushed deferred ++ openNoticeBytes body)

/-- The frames the send list will send, in order. -/
def State.outbound (s : State) : List Frame := s.control.sendList.map ControlFrame.toFrame

end Sys2Proof.Machine
end

