-- ==== Sys2Proof/Safety.lean ====
section
/-! DEFINITION. What counts as a safe step and a safe run, and the laws that claims are made of: what every command
keeps of the ink, the residues, the station list, the tables' capacities, the silence timer, the output lines, the
stored settings and the reference sets. -/

namespace Sys2Proof.Machine

set_option Elab.async false

open Sys2Proof

/-- A command is answered: it leaves a next state, neither a fault nor a refusal. -/
def Answered (r : Result) : Prop := ∃ t, r = .next t

/-- Every number of steps from a state leaves a next state. -/
def RunsOn (s : State) : Prop := ∀ n, Answered (Sys2Proof.core.run n s)

/-- The commands of a list, one after another. -/
def execAll : List Instr → State → Result
  | [], s => .next s
  | c :: cs, s =>
    match exec c s with
    | .next t => execAll cs t
    | .fault r => .fault r
    | .refused r => .refused r

/-! ## Laws that every command keeps -/

/-- The law of the parcel queue: the volumes of at most 24 parcels sum to the level, none of them is empty, and the
level is at most 40,000,000 nL (R35). -/
structure ParcelLaw (level : Nat) (parcels : List Parcel) : Prop where
  sum : (parcels.map (·.volume)).sum = level
  filled : ∀ p ∈ parcels, 0 < p.volume
  capacity : level ≤ 40000000
  room : parcels.length ≤ 24

/-- What a refill under way may still pour has its place in the sub-tank and in the parcel queue: while the pump runs
the target fits above the level, and the refill's own parcel is in the queue or the queue has room for it; while it does
not run no pulses are counted (R37, R38, R43). -/
structure PumpLaw (ch : Channel) : Prop where
  fits : ∀ j, ch.job = some j → ch.pumpRun = true →
    ch.level + j.target ≤ 40000000 ∧ (j.parcelIn = true ∨ ch.parcels.length < 24)
  still : ∀ j, ch.job = some j → ch.pumpRun = false → j.pulses = 0

/-- The two laws of a channel. -/
structure ChannelLaw (ch : Channel) : Prop where
  parcels : ParcelLaw ch.level ch.parcels
  pump : PumpLaw ch

/-- Every sub-tank keeps its laws, and its checkpoint the law of the parcel queue (R35, R199). -/
def TankLaw (s : State) : Prop :=
  ∀ c : Chan, ChannelLaw (s.channel c) ∧ ParcelLaw (s.store.ink[c]).level (s.store.ink[c]).parcels

/-- Every residue, and its checkpoint, is below one nanolitre (R55, R56). -/
def ResidueLaw (s : State) : Prop :=
  ∀ c : Chan, s.meter.residues[c] < Config.unitsPerNl ∧ (s.store.ink[c]).residue < Config.unitsPerNl

/-- The station list stands in order of trigger, a SCAN before a cut at one trigger (R74). -/
def StationLaw (s : State) : Prop := s.media.stations.Pairwise fun a b => b.before a = false

/-- No table, list or queue holds more than its rule allows (R3, R74, R128, R141, R32, R183, R181). -/
structure Capacities (s : State) : Prop where
  prints : s.queue.prints.length ≤ 8
  stations : s.media.stations.length ≤ 16
  editions : s.registry.table.length ≤ 64
  closedIds : s.registry.closedIds.length ≤ 1024
  memory : s.ink.memory.length ≤ 32
  sendList : s.control.sendList.length ≤ 32
  receiveList : s.control.receiveList.length ≤ 4

/-- The silence timer runs only while the engine is PRINTING, HALT is low and no feed ask is outstanding (R172). -/
def SilenceLaw (s : State) : Prop :=
  s.engine.silence.isSome → s.engine.state = .printing ∧ s.engine.halt = false ∧ s.engine.feedAsk = none

/-- The five laws together. -/
structure Laws (s : State) : Prop where
  tank : TankLaw s
  residues : ResidueLaw s
  stations : StationLaw s
  capacities : Capacities s
  silence : SilenceLaw s

/-- The prints in flight of a kind for an edition (R129). -/
def flying (prints : List PrintRecord) (k : PrintKind) (id : Nat) : Nat :=
  (prints.filter fun p => p.inFlight && p.kind == k && p.editionId == some id).length

/-- The law of the print queue: no two prints hold one handle (R4); a print is ACTIVE exactly while the engine is
PRINTING, there is at most one, and the open-print marker is that print's (R3, R165, R201); none is ACTIVE while one is
being positioned (R11, R14); a print has no outcome before its imaging is over and none in SCAN (R2), and one that awaits
tail-out has been imaged (R84); and the cost log's records and the live prints together are at most 128 (R159). -/
structure PrintsLaw (prints : List PrintRecord) (engine : EngineState) (marker : Option OpenMarker) (hold : Hold)
    (log : List CostRecord) : Prop where
  handles : (prints.map (·.handle)).Nodup
  active : (prints.filter (·.state == .active)).map (·.handle) = (marker.map (·.handle)).toList
  printing : engine = .printing ↔ marker.isSome = true
  positioning : ∀ h, hold = .positioning h → marker = none
  undecided : ∀ p ∈ prints, p.imaged = false ∨ p.state = .scan → p.outcome = none
  awaiting : ∀ p ∈ prints, p.awaitingTailOut = true → p.imaged = true
  places : log.length + (prints.filter PrintRecord.live).length ≤ 128

/-- The law of the editions: no two entries hold one id (R131); every print of an edition finds its entry and has a
reference set (R5, R142, R143); an entry's in-flight counts are the numbers of its prints in flight (R129); and accepted
and in-flight prints of a kind never exceed its limit (R130). -/
structure EditionLaw (prints : List PrintRecord) (table : List Edition) : Prop where
  ids : (table.map (·.id)).Nodup
  known : ∀ p ∈ prints, ∀ id, p.editionId = some id → p.refSet.isSome = true ∧ id ∈ table.map (·.id)
  counts : ∀ e ∈ table, e.inFlight = flying prints .edition e.id ∧ e.apInFlight = flying prints .artistProof e.id
  limits : ∀ e ∈ table, e.accepted + e.inFlight ≤ e.limit ∧ e.apAccepted + e.apInFlight ≤ e.apLimit

/-- The law of the reference sets: an entry names a set there is, a print of an edition has the set of its entry (R5), and
a set that a non-CLOSED edition with an accepted print refers to is FIXED or SEALED (R109). -/
structure TiesLaw (s : State) : Prop where
  index : ∀ e ∈ s.registry.table, e.refSet < 32
  own : ∀ p ∈ s.queue.prints, ∀ e ∈ s.registry.table, p.editionId = some e.id → p.refSet = some e.refSet
  tied : ∀ e ∈ s.registry.table, e.state ≠ .closed → 0 < e.accepted + e.apAccepted →
    (s.refSet e.refSet).mode ≠ .opened

/-- The law of the reservations: the ready order lists each READY print once and no other (R3), and on every channel the
reservations of READY and ACTIVE prints sum to no more than the usable supply (R61). -/
structure SupplyLaw (s : State) : Prop where
  order : s.queue.readyOrder.Nodup
  ready : ∀ h, h ∈ s.queue.readyOrder ↔ ∃ p ∈ s.queue.prints, p.handle = h ∧ p.state = .ready
  within : ∀ c, s.committed c ≤ s.usable c

/-- The law of the roll: the station list is in order (R74); no listed trigger lies behind H; and a movement under way
is a leg of a feed, began at H, and ends at or before every listed trigger, so that no trigger is passed (R78). -/
structure RollLaw (m : MediaTransport) : Prop where
  order : m.stations.Pairwise fun a b => b.before a = false
  ahead : ∀ e ∈ m.stations, m.roll.head ≤ e.trigger
  moving : ∀ v, m.movement = some v →
    m.feed.isSome = true ∧ v.start = m.roll.head ∧ ∀ e ∈ m.stations, v.target ≤ e.trigger

/-- The three laws together. -/
structure WorkOf (prints : List PrintRecord) (engine : EngineState) (marker : Option OpenMarker) (m : MediaTransport)
    (log : List CostRecord) (table : List Edition) : Prop where
  rollLaw : RollLaw m
  printsLaw : PrintsLaw prints engine marker m.hold log
  editionLaw : EditionLaw prints table

/-- The prints, the roll, the editions, the engine and the cost log agree with one another. -/
abbrev WorkLaw (s : State) : Prop :=
  WorkOf s.queue.prints s.engine.state s.store.openPrint s.media s.cost.log s.registry.table

/-- HALT, ATTN and the lamps are at the levels that the conditions, the routings and the settings give (R173, R190,
R192). -/
structure LinesFollow (s : State) : Prop where
  halt : s.engine.halt = s.haltLevel
  attn : s.control.attn = s.attnLevel
  lit : ∀ i : Fin 4, s.control.lit[i] = s.lampLit s.control.lamps[i]

/-! ## What only its own request writes -/

/-- The access level and the stored settings and tables that only a request writes (R49, R52, R147, R149, R187,
R188). -/
structure Stored where
  level : AccessLevel
  studioPassword : Nat
  servicePassword : Nat
  inkMargin : Nat
  policy : UncheckedPolicy
  lamps : Vector LampSetting 4
  attnRouting : ConditionSet
  haltRouting : ConditionSet
  dropTable : Vector DropRow 24
  trims : PerChan Nat
  manualOn : Bool
  manualRow : Fin 24
  tariff : Vector Nat 32
  mediaTable : Vector MediaEntry 16
  day : Option Nat
  deriving DecidableEq, Repr

/-- What a state holds of them. -/
def State.stored (s : State) : Stored :=
  { level := s.control.level, studioPassword := s.control.studioPassword
    servicePassword := s.control.servicePassword, inkMargin := s.control.inkMargin, policy := s.control.policy
    lamps := s.control.lamps, attnRouting := s.control.attnRouting, haltRouting := s.engine.haltRouting
    dropTable := s.meter.dropTable, trims := s.meter.trims, manualOn := s.meter.manualOn
    manualRow := s.meter.manualRow, tariff := s.cost.tariff, mediaTable := s.cost.media, day := s.clock.day }

/-- The commands whose rule writes the access level, a stored setting or table, the day counter, a channel's colour
code, a notice mask or a reference set's contents. -/
def writesStored : Instr → Bool
  | .powerOn _ | .reset _ | .factoryRestore _ => true
  | .access .. | .passwordSet .. | .date .. | .dayTimerExpiry => true
  | .setInkMargin .. | .setUncheckedPolicy .. | .setNoticeMask .. => true
  | .setLamp .. | .setHaltRouting .. | .setAttnRouting .. => true
  | .trimSet .. | .dropRowSet .. | .manualModeSet .. | .channelColour .. => true
  | .tariffSet .. | .mediaSet .. | .referenceLoad .. => true
  | _ => false

/-- A reference set's contents stay, and a SEALED set stays whole (R108, R109). -/
structure SetKept (a b : RefSet) : Prop where
  patches : b.patches = a.patches
  warn : b.warn = a.warn
  fail : b.fail = a.fail
  sealed : a.mode = .sealed → b = a

/-! ## Access levels -/

/-- The tag, the kind and the access level of each request, as its own rule gives the level (R182, R187). PASSWORD_SET
makes its access test itself and is not among them. -/
def requestLevel : Instr → Option (Nat × Nat × AccessLevel)
  | .access tag _ _ => some (tag, 0x01, .operator)
  | .ident tag _ => some (tag, 0x03, .operator)
  | .date tag _ => some (tag, 0x04, .operator)
  | .setInkMargin tag _ | .setUncheckedPolicy tag _ | .setNoticeMask tag _ => some (tag, 0x05, .studio)
  | .setLamp tag _ | .setHaltRouting tag _ | .setAttnRouting tag _ => some (tag, 0x05, .studio)
  | .settingsQuery tag => some (tag, 0x06, .operator)
  | .reset tag => some (tag, 0x07, .operator)
  | .factoryRestore tag => some (tag, 0x08, .service)
  | .clearFaultChannel tag _ | .clearFaultTransport tag | .clearFaultVerdictLatch tag => some (tag, 0x09, .operator)
  | .printSubmit tag _ => some (tag, 0x10, .operator)
  | .printRelease tag _ => some (tag, 0x11, .operator)
  | .printCancel tag _ => some (tag, 0x12, .operator)
  | .printQuery tag _ => some (tag, 0x13, .operator)
  | .channelColour tag _ _ => some (tag, 0x18, .service)
  | .inkQuery tag _ => some (tag, 0x19, .operator)
  | .trimSet tag _ _ => some (tag, 0x1A, .service)
  | .dropRowSet tag _ _ _ _ => some (tag, 0x1B, .service)
  | .manualModeSet tag _ _ => some (tag, 0x1C, .service)
  | .meterQuery tag _ => some (tag, 0x1D, .operator)
  | .rollLoad tag _ _ _ _ => some (tag, 0x20, .operator)
  | .rollConfirm tag => some (tag, 0x21, .operator)
  | .move tag _ => some (tag, 0x22, .operator)
  | .rollQuery tag => some (tag, 0x23, .operator)
  | .cutAt tag _ _ => some (tag, 0x24, .operator)
  | .cutNow tag _ => some (tag, 0x25, .operator)
  | .cutQuery tag => some (tag, 0x26, .operator)
  | .referenceLoad tag _ _ _ _ _ => some (tag, 0x28, .studio)
  | .referenceSeal tag _ => some (tag, 0x29, .studio)
  | .referenceQuery tag _ => some (tag, 0x2A, .operator)
  | .calibrate tag => some (tag, 0x2B, .operator)
  | .colourQuery tag => some (tag, 0x2C, .operator)
  | .editionOpen tag _ _ _ _ _ _ => some (tag, 0x30, .studio)
  | .editionHold tag _ => some (tag, 0x31, .studio)
  | .editionResume tag _ => some (tag, 0x32, .studio)
  | .editionClose tag _ => some (tag, 0x33, .studio)
  | .editionArchive tag _ => some (tag, 0x34, .studio)
  | .editionQuery tag _ => some (tag, 0x35, .operator)
  | .closedQuery tag _ => some (tag, 0x36, .operator)
  | .tariffSet tag _ _ => some (tag, 0x38, .studio)
  | .mediaSet tag _ _ _ _ => some (tag, 0x39, .studio)
  | .costRead tag => some (tag, 0x3A, .operator)
  | .costDrop tag _ => some (tag, 0x3B, .operator)
  | .priceQueryTariff tag | .priceQueryMedia tag | .priceQueryLog tag => some (tag, 0x3C, .operator)
  | .engineQuery tag => some (tag, 0x3D, .operator)
  | _ => none

end Sys2Proof.Machine
end

