-- ==== Sys2Proof/Certificates/Slice0/Obligations.lean ====
section
/-! DEFINITION. The statements for the provers: the machine's step, the laws that every step keeps, the frames of the
links, what each command does, and the rules of the shared operations. -/

section Statements

open Sys2Proof Sys2Proof.Machine

set_option Elab.async false

/-! ## The step -/

/-- One step: a waiting command is its own effect on the state with the rest of the queue. With none waiting (the model's
choice, log entry 3): before power is applied nothing changes; with power, the oldest frame of the receive list is taken
from it and handled, a frame that spells a command by that command's meaning (R181); and with no frame and no timer run
out, a millisecond that is no boundary of the blink timebase passes. -/
def Obligations.StepRunsFront : Prop :=
  (∀ (c : Instr) (rest : List Instr) (s : State),
    step { s with pending := c :: rest } = exec c { s with pending := rest }) ∧
  ∀ s : State, s.pending = [] →
    (s.startUp = .restoring → step s = .next s) ∧
    (s.startUp ≠ .restoring →
      (∀ f rest c, s.control.receiveList = f :: rest → decodeControl f = .command c →
        step s = exec c { s with control := { s.control with receiveList := rest } }) ∧
      (s.control.receiveList = [] → (∀ x ∈ timers s, ∀ d, x.1 = some d → s.clock.now < d) →
        s.clock.now % 125 ≠ 124 →
        step s = .next { s with clock := { s.clock with now := s.clock.now + 1 } }))

/-- Every number of steps from every state leaves a next state: no command stops the block. -/
def Obligations.BlockNeverStops : Prop := ∀ s : State, RunsOn s

/-- No command touches the queue of the commands that wait. -/
def Obligations.QueueUntouched : Prop :=
  ∀ (c : Instr) (s t : State), exec c s = .next t → t.pending = s.pending

/-! ## The laws that every step keeps -/

/-- The law of the parcel queue (R35): on every channel at most 24 parcels, none empty, whose volumes sum to the
sub-tank level, which never exceeds 40,000,000 nL; with it, that a running refill's target fits above the level. -/
def Obligations.TankLawKept : Prop := ∀ s t : State, TankLaw s → step s = .next t → TankLaw t

/-- Every residue stays below one nanolitre (R55, R56). -/
def Obligations.ResidueLawKept : Prop := ∀ s t : State, ResidueLaw s → step s = .next t → ResidueLaw t

/-- The station list stays in order of trigger, a SCAN before a cut at one trigger (R74). Where the prints, the roll, the
editions and the engine agree with one another, no step leaves H beyond a listed trigger or a movement that ends beyond
one, and a movement under way is a leg of a feed that began at H (R78). -/
def Obligations.StationOrderKept : Prop :=
  (∀ s t : State, StationLaw s → step s = .next t → StationLaw t) ∧
  ∀ s t : State, WorkLaw s → step s = .next t → RollLaw t.media

/-- The print queue, the station list, the edition table, the closed ids, the memory table, the send list and the receive
list never come to hold more than their rules allow (R3, R32, R74, R128, R141, R181, R183). Where the laws of the work
hold, the law of the print queue is kept: no handle is held twice, the cost log holds at most 128 records, and its
records and the live prints together never exceed 128 (R4, R158, R159). With a print queue in its bound, the law of the
reservations is kept too: the ready order lists each READY print once and no other, and on every channel the committed
supply never exceeds the usable supply (R3, R61). -/
def Obligations.CapacitiesKept : Prop :=
  (∀ s t : State, Capacities s → step s = .next t → Capacities t) ∧
  (∀ s t : State, WorkLaw s → step s = .next t →
    PrintsLaw t.queue.prints t.engine.state t.store.openPrint t.media.hold t.cost.log ∧
    t.cost.log.length ≤ 128 ∧ t.cost.log.length + t.liveCount ≤ 128) ∧
  ∀ s t : State, WorkLaw s → Capacities s → SupplyLaw s → step s = .next t →
    SupplyLaw t ∧ ∀ c, t.committed c ≤ t.usable c

/-- The silence timer runs only while the engine is PRINTING, HALT is not asserted and no feed ask is outstanding
(R172). Where the laws of the work hold, at most one print is ACTIVE, and the engine is PRINTING exactly while one is
(R3, R165). -/
def Obligations.SilenceLawKept : Prop :=
  (∀ s t : State, SilenceLaw s → step s = .next t → SilenceLaw t) ∧
  ∀ s t : State, WorkLaw s → step s = .next t →
    (t.queue.prints.filter (·.state == .active)).length ≤ 1 ∧
    (t.engine.state = .printing ↔ ∃ p ∈ t.queue.prints, p.state = .active)

/-- HALT, ATTN and the four lamps follow their conditions, routings and settings (R173, R190 to R192). -/
def Obligations.LinesFollowKept : Prop := ∀ s t : State, LinesFollow s → step s = .next t → LinesFollow t

/-- The laws hold of the state after reset. -/
def Obligations.LawsAtReset : Prop :=
  Laws State.reset ∧ LinesFollow State.reset ∧ WorkLaw State.reset ∧ TiesLaw State.reset ∧ SupplyLaw State.reset

/-- Sealing cannot be undone: whatever happens, a SEALED set keeps its mode, its patches and its tolerances (R108). A
FIXED set keeps its patches and its tolerances too. Where the laws of the work hold, the law of the reference sets is
kept: a set that a non-CLOSED edition with an accepted print refers to is FIXED or SEALED, so its contents do not change
(R109); and a print of an edition has the set of its entry (R5). -/
def Obligations.SealedForever : Prop :=
  (∀ (s t : State) (i : Fin 32), (s.colour.sets[i]).mode = .sealed → step s = .next t →
    t.colour.sets[i] = s.colour.sets[i]) ∧
  (∀ (s t : State) (i : Fin 32), (s.colour.sets[i]).mode ≠ .opened → step s = .next t →
    (t.colour.sets[i]).patches = (s.colour.sets[i]).patches ∧ (t.colour.sets[i]).warn = (s.colour.sets[i]).warn ∧
    (t.colour.sets[i]).fail = (s.colour.sets[i]).fail) ∧
  ∀ s t : State, WorkLaw s → TiesLaw s → step s = .next t → TiesLaw t

/-- A closed id is never removed, and ids join the list only at its end (R141). Where the laws of the work hold, the law of
the editions is kept: an entry's in-flight counts are the numbers of its prints in flight, and accepted plus in-flight
prints of a kind never exceed its limit (R129, R130). -/
def Obligations.ClosedIdsNeverLeave : Prop :=
  (∀ s t : State, step s = .next t → s.registry.closedIds <+: t.registry.closedIds) ∧
  ∀ s t : State, WorkLaw s → step s = .next t →
    EditionLaw t.queue.prints t.registry.table ∧
    ∀ e ∈ t.registry.table, e.accepted + e.inFlight ≤ e.limit ∧ e.apAccepted + e.apInFlight ≤ e.apLimit

/-- A cost record leaves the log by COST_DROP alone, which takes the oldest record and names its sequence number;
records join at the end (R158, R161). -/
def Obligations.CostRecordsStay : Prop :=
  ∀ (c : Instr) (s t : State), exec c s = .next t →
    s.cost.log <+: t.cost.log ∨
    ∃ tag r rest, c = .costDrop tag r.sequence ∧ s.cost.log = r :: rest ∧ rest <+: t.cost.log

/-- The access level, the stored settings and tables, the day, the masks, the colour codes and the contents of the
reference sets are written by the commands whose rules write one of them, `writesStored`, one list for all of these items
together, and by no command outside it (R49, R52, R106, R147, R149, R187, R188, R195). -/
def Obligations.OnlyItsRequestWrites : Prop :=
  ∀ (c : Instr) (s t : State), writesStored c = false → exec c s = .next t →
    t.stored = s.stored ∧ (∀ k : NoticeKind, (t.notice k).mask = (s.notice k).mask) ∧
    (∀ ch : Chan, (t.channel ch).colourCode = (s.channel ch).colourCode) ∧
    ∀ i : Fin 32, SetKept s.colour.sets[i] t.colour.sets[i]

/-! ## Frames -/

/-- Every well-formed request, sent as its frame, is read back as itself (section 10.8). -/
def Obligations.ControlRoundTrip : Prop :=
  ∀ (c : Instr) (f : Frame), c.wf = true → encodeControl c = some f → decodeControl f = .command c

/-- Every well-formed message of the engine and answer of the spectro head, sent as its frame, is read back as itself
(section 10.8). -/
def Obligations.PartnerRoundTrip : Prop :=
  ∀ (c : Instr) (f : Frame), c.wf = true →
    (encodeEngine c = some f → decodeEngine f = .command c) ∧ (encodeSpectro c = some f → decodeSpectro f = c)

/-- The bytes of any frame of at most 1024 body bytes, received one after another from HUNT, put exactly that frame at
the end of the receive list and leave the receiver in HUNT, with no fault counted (R178, R179, R181); on each of the
three links they leave the receiver in HUNT and the frame in the hands of the link's owner; and the frame check gives
29B1h over the nine ASCII bytes "123456789" (R178). -/
def Obligations.ReceiverTakesFrame : Prop :=
  (∀ (f : Frame) (s : State), f.body.length ≤ 1024 → s.links.control.receiver = .hunt →
    s.control.receiveList.length < 4 →
    ∃ t, execAll (f.toBytes.map (Instr.linkByteReceived .control)) s = .next t ∧
      t.control.receiveList = s.control.receiveList ++ [f] ∧
      t.links.control = { s.links.control with receiver := .hunt, gapDeadline := none }) ∧
  (∀ (l : Link) (f : Frame) (s : State), f.body.length ≤ 1024 → (s.link l).receiver = .hunt →
    execAll (f.toBytes.map (Instr.linkByteReceived l)) s =
      .next (refreshPanel (takeFrame l f (refreshPanel
        (s.mapLink l fun k => { k with receiver := .hunt, gapDeadline := none }))))) ∧
  crc16 [0x31#8, 0x32#8, 0x33#8, 0x34#8, 0x35#8, 0x36#8, 0x37#8, 0x38#8, 0x39#8] = 0x29B1#16

/-! ## Access -/

/-- A request below its level is answered ACCESS and changes nothing else (R182, R187). -/
def Obligations.BelowLevelRefused : Prop :=
  ∀ (c : Instr) (tag kind : Nat) (level : AccessLevel) (s : State), requestLevel c = some (tag, kind, level) →
    AccessLevel.rank s.control.level < AccessLevel.rank level →
    exec c s = .next (reply tag .access kind .none s)

/-- ACCESS (R187): OPERATOR is given unasked; STUDIO and SERVICE are given for their password, and any other password
leaves the link at OPERATOR; a level outside the three changes nothing. PASSWORD_SET replaces the password of a level
that is held, leaves the access level, and is refused ACCESS below that level and RANGE for any other level. -/
def Obligations.AccessAndPasswords : Prop :=
  ∀ (tag password : Nat) (s : State),
    let given := fun l : AccessLevel => { s with control := { s.control with level := l } }
    exec (.access tag 0 password) s = .next (reply tag .ok 0x01 (.level .operator) (given .operator)) ∧
    (password = s.control.studioPassword →
      exec (.access tag 1 password) s = .next (reply tag .ok 0x01 (.level .studio) (given .studio))) ∧
    (password ≠ s.control.studioPassword →
      exec (.access tag 1 password) s = .next (reply tag .denied 0x01 .none (given .operator))) ∧
    (password = s.control.servicePassword →
      exec (.access tag 2 password) s = .next (reply tag .ok 0x01 (.level .service) (given .service))) ∧
    (password ≠ s.control.servicePassword →
      exec (.access tag 2 password) s = .next (reply tag .denied 0x01 .none (given .operator))) ∧
    (∀ level, 3 ≤ level → exec (.access tag level password) s = .next (reply tag .range 0x01 .none s)) ∧
    (s.control.level ≠ .operator →
      exec (.passwordSet tag 1 password) s =
        .next (reply tag .ok 0x02 .none { s with control := { s.control with studioPassword := password } })) ∧
    (s.control.level = .operator →
      exec (.passwordSet tag 1 password) s = .next (reply tag .access 0x02 .none s)) ∧
    (s.control.level = .service →
      exec (.passwordSet tag 2 password) s =
        .next (reply tag .ok 0x02 .none { s with control := { s.control with servicePassword := password } })) ∧
    (s.control.level ≠ .service →
      exec (.passwordSet tag 2 password) s = .next (reply tag .access 0x02 .none s)) ∧
    ∀ level, level = 0 ∨ 3 ≤ level →
      exec (.passwordSet tag level password) s = .next (reply tag .range 0x02 .none s)

/-! ## Requests that read or write one table -/

/-- Every query is answered OK with its report, and changes nothing else; a query that names what is not held or out of
range is refused (R23, R47, R62, R87, R105, R110, R127, R144, R160, R163, R177, R189). -/
def Obligations.QueriesChangeNothing : Prop :=
  ∀ (tag : Nat) (s : State),
    exec (.settingsQuery tag) s = .next (reply tag .ok 0x06 (.settings (settingsReport s)) s) ∧
    exec (.printQuery tag none) s = .next (reply tag .ok 0x13 (.prints (s.queue.prints.map (printLine s))) s) ∧
    (∀ h p, s.findPrint h = some p →
      exec (.printQuery tag (some h)) s = .next (reply tag .ok 0x13 (.print (printReport p)) s)) ∧
    (∀ h, s.findPrint h = none →
      exec (.printQuery tag (some h)) s = .next (reply tag .notFound 0x13 .none s)) ∧
    exec (.inkQuery tag none) s = .next (reply tag .ok 0x19 (.inkLines (s.ink.channels.toList.map inkLine)) s) ∧
    (∀ c : Chan, exec (.inkQuery tag (some c.val)) s = .next (reply tag .ok 0x19 (.ink (inkReport s c)) s)) ∧
    (∀ n, 12 ≤ n → exec (.inkQuery tag (some n)) s = .next (reply tag .range 0x19 .none s)) ∧
    exec (.meterQuery tag none) s =
      .next (reply tag .ok 0x1D (.meterAll s.meter.manualOn s.meter.manualRow s.meter.lastRow s.meter.lastSequence
        s.meter.dropTable (channelList.map (meterLine s))) s) ∧
    (∀ c : Chan, exec (.meterQuery tag (some c.val)) s =
      .next (reply tag .ok 0x1D (.meter (meterLine s c) (s.usable c) (holdersOf s c)) s)) ∧
    (∀ n, 12 ≤ n → exec (.meterQuery tag (some n)) s = .next (reply tag .range 0x1D .none s)) ∧
    exec (.rollQuery tag) s = .next (reply tag .ok 0x23 (.roll (rollReport s)) s) ∧
    exec (.cutQuery tag) s = .next (reply tag .ok 0x26 (.cut (cutReport s)) s) ∧
    (∀ i : Fin 32, exec (.referenceQuery tag i.val) s =
      .next (reply tag .ok 0x2A (refReply i.val s.colour.sets[i]) s)) ∧
    (∀ n, 32 ≤ n → exec (.referenceQuery tag n) s = .next (reply tag .range 0x2A .none s)) ∧
    exec (.colourQuery tag) s = .next (reply tag .ok 0x2C (.colour (colourReport s)) s) ∧
    (∃ lines, lines.Perm (s.registry.table.map editionLine) ∧ exec (.editionQuery tag none) s =
      .next (reply tag .ok 0x35 (.editionLines lines s.registry.table.length s.registry.closedIds.length) s)) ∧
    (∀ id e, s.findEdition id = some e →
      exec (.editionQuery tag (some id)) s = .next (reply tag .ok 0x35 (.editionEntry e) s)) ∧
    (∀ id, s.findEdition id = none →
      exec (.editionQuery tag (some id)) s = .next (reply tag .notFound 0x35 .none s)) ∧
    (∀ start, start ≤ 1023 → exec (.closedQuery tag start) s =
      .next (reply tag .ok 0x36
        (.closedIds s.registry.closedIds.length ((s.registry.closedIds.drop start).take 128)) s)) ∧
    (∀ start, 1023 < start → exec (.closedQuery tag start) s = .next (reply tag .range 0x36 .none s)) ∧
    (∀ r rest, s.cost.log = r :: rest →
      exec (.costRead tag) s = .next (reply tag .ok 0x3A (.costRecord r (rest.length + 1) s.freeSpace) s)) ∧
    (s.cost.log = [] → exec (.costRead tag) s = .next (reply tag .empty 0x3A .none s)) ∧
    exec (.priceQueryTariff tag) s = .next (reply tag .ok 0x3C (.tariffTable s.cost.tariff) s) ∧
    exec (.priceQueryMedia tag) s = .next (reply tag .ok 0x3C (.mediaTable s.cost.media) s) ∧
    exec (.priceQueryLog tag) s = .next (reply tag .ok 0x3C (.log (logReport s)) s) ∧
    exec (.engineQuery tag) s = .next (reply tag .ok 0x3D (.engine (engineReport s)) s)

/-- DATE sets the day counter, starts its 86,400 s timer and replies the day it had before; IDENT reports part code
0612h, revision 1 and the counters as they stood, and clears the three fault counters when it asks for it (R193 to
R195). -/
def Obligations.DateAndIdentity : Prop :=
  ∀ (tag : Nat) (s : State),
    (∀ day, exec (.date tag day) s =
      .next (reply tag .ok 0x04 (.day s.clock.day day)
        { s with clock := ⟨s.clock.now, some day, some (s.clock.now + 86400000)⟩ })) ∧
    ∃ r : IdentReport, r.partCode = 0x0612 ∧ r.revision = 1 ∧ r.controlFaults = s.links.control.faults ∧
      r.engineFaults = s.links.engine.faults ∧ r.spectroFaults = s.links.spectro.faults ∧
      r.editions = s.registry.table.length ∧ r.closedIds = s.registry.closedIds.length ∧
      r.costRecords = s.cost.log.length ∧ r.memoryEntries = s.ink.memory.length ∧
      r.setsInUse = (s.colour.sets.toList.filter fun x => !x.patches.isEmpty).length ∧
      exec (.ident tag false) s = .next (reply tag .ok 0x03 (.ident r) s) ∧
      exec (.ident tag true) s =
        .next (reply tag .ok 0x03 (.ident r)
          { s with links :=
            { control := { s.links.control with faults := 0 }
              engine := { s.links.engine with faults := 0 }
              spectro := { s.links.spectro with faults := 0 } } })

/-- SETTING_SET at STUDIO or SERVICE (R188): each setting takes its value, with the effect its row gives, and the reply
carries it. A value outside the setting's set is refused RANGE and changes nothing: a margin above 25, a policy above 1,
a mask for FRAME_FAULT, a lamp above 3, INK_OUT or ROLL_ENDED in the HALT routing, a tenth condition for ATTN. -/
def Obligations.SettingWrites : Prop :=
  ∀ (tag : Nat) (s : State), s.control.level ≠ .operator →
    (∀ m, m ≤ 25 → exec (.setInkMargin tag (BitVec.ofNat 32 m)) s =
      .next (reply tag .ok 0x05 (.setting (.inkMargin m))
        (finish (releaseChecks { s with control := { s.control with inkMargin := m } })))) ∧
    exec (.setUncheckedPolicy tag 0#32) s =
      .next (reply tag .ok 0x05 (.setting (.uncheckedPolicy .accept))
        { s with control := { s.control with policy := .accept } }) ∧
    exec (.setUncheckedPolicy tag 1#32) s =
      .next (reply tag .ok 0x05 (.setting (.uncheckedPolicy .reject))
        { s with control := { s.control with policy := .reject } }) ∧
    (∀ (v : BitVec 32) (kind : NoticeKind), noticeMaskOf v = some (kind, true) →
      exec (.setNoticeMask tag v) s =
        .next (reply tag .ok 0x05 (.setting (.noticeMask kind true))
          (refreshPanel (s.mapNotice kind fun n => { n with mask := true })))) ∧
    (∀ (v : BitVec 32) (kind : NoticeKind), noticeMaskOf v = some (kind, false) →
      exec (.setNoticeMask tag v) s =
        .next (reply tag .ok 0x05 (.setting (.noticeMask kind false))
          (refreshPanel (flushKind false kind (s.mapNotice kind fun n => { n with mask := false }))))) ∧
    (∀ (v : BitVec 32) (lamp : Fin 4) (l : LampSetting), lampOf v = some (lamp, l) →
      exec (.setLamp tag v) s =
        .next (reply tag .ok 0x05 (.setting (.lamp lamp l))
          (refreshPanel { s with control := { s.control with lamps := s.control.lamps.set lamp l } }))) ∧
    (∀ (v : BitVec 32) (r : ConditionSet), haltRoutingOf v = some r →
      exec (.setHaltRouting tag v) s =
        .next (reply tag .ok 0x05 (.setting (.haltRouting r))
          (finish (haltUpdate { s with engine := { s.engine with haltRouting := r } })))) ∧
    (∀ (v : BitVec 32) (r : ConditionSet), attnRoutingOf v = some r →
      exec (.setAttnRouting tag v) s =
        .next (reply tag .ok 0x05 (.setting (.attnRouting r))
          (refreshPanel { s with control := { s.control with attnRouting := r } }))) ∧
    let refused := Host.Outcome.next (φ := Fault) (ρ := Refusal) (reply tag .range 0x05 .none s)
    (∀ v : BitVec 32, 25 < v.toNat → exec (.setInkMargin tag v) s = refused) ∧
    (∀ v : BitVec 32, 1 < v.toNat → exec (.setUncheckedPolicy tag v) s = refused) ∧
    (∀ v : BitVec 32, v.toNat % 256 = 0x9B → exec (.setNoticeMask tag v) s = refused) ∧
    (∀ v : BitVec 32, 3 < v.toNat % 256 → exec (.setLamp tag v) s = refused) ∧
    (∀ v : BitVec 32, v.getLsbD 0 = true ∨ v.getLsbD 1 = true → exec (.setHaltRouting tag v) s = refused) ∧
    ∀ v : BitVec 32, 512 ≤ v.toNat → exec (.setAttnRouting tag v) s = refused

/-- TRIM_SET, DROP_ROW_SET and MANUAL_MODE_SET at SERVICE (R51 to R53): with no print ACTIVE each writes its row alone,
a trim clamped to 3072..5120; with one each is refused BUSY; a channel above 11 or a row above 23 is refused RANGE
whether or not a print is ACTIVE. -/
def Obligations.MeterTableWrites : Prop :=
  ∀ (tag : Nat) (s : State), s.control.level = .service →
    (s.active = none →
      (∀ (c : Chan) (trim : Nat), exec (.trimSet tag c.val trim) s =
        .next (reply tag .ok 0x1A (.trim (max 3072 (min 5120 trim)) (decide (trim < 3072 ∨ 5120 < trim)))
          { s with meter := { s.meter with trims := s.meter.trims.set c (max 3072 (min 5120 trim)) } })) ∧
      (∀ (i : Fin 24) (small medium large : Nat), exec (.dropRowSet tag i.val small medium large) s =
        .next (reply tag .ok 0x1B (.dropRow i ⟨small, medium, large⟩)
          { s with meter := { s.meter with dropTable := s.meter.dropTable.set i ⟨small, medium, large⟩ } })) ∧
      (∀ i : Fin 24, exec (.manualModeSet tag 1 i.val) s =
        .next (reply tag .ok 0x1C (.manual true i)
          { s with meter := { s.meter with manualOn := true, manualRow := i } })) ∧
      (∀ i : Fin 24, exec (.manualModeSet tag 0 i.val) s =
        .next (reply tag .ok 0x1C (.manual false i)
          { s with meter := { s.meter with manualOn := false, manualRow := i } }))) ∧
    (s.active ≠ none →
      (∀ (c : Chan) (trim : Nat), exec (.trimSet tag c.val trim) s = .next (reply tag .busy 0x1A .none s)) ∧
      (∀ (i : Fin 24) (small medium large : Nat),
        exec (.dropRowSet tag i.val small medium large) s = .next (reply tag .busy 0x1B .none s)) ∧
      (∀ (mode : Nat) (i : Fin 24), mode < 2 →
        exec (.manualModeSet tag mode i.val) s = .next (reply tag .busy 0x1C .none s))) ∧
    (∀ channel trim, 12 ≤ channel → exec (.trimSet tag channel trim) s = .next (reply tag .range 0x1A .none s)) ∧
    (∀ row small medium large, 24 ≤ row →
      exec (.dropRowSet tag row small medium large) s = .next (reply tag .range 0x1B .none s)) ∧
    ∀ mode row, 2 ≤ mode ∨ 24 ≤ row → exec (.manualModeSet tag mode row) s = .next (reply tag .range 0x1C .none s)

/-- TARIFF_SET and MEDIA_SET at STUDIO or SERVICE (R148, R150): a price in range is written, with the price before it
in the reply; a media entry in range is written whole; what lies outside is refused RANGE. COST_DROP naming the oldest
record's number drops that record, and the early-full flag and the release checks follow; any other number is a
MISMATCH that names the oldest; an empty log is EMPTY (R161). That the reply reads the log and the space after the release
checks and before a start or a flush leg is the model's reading (log entry 8). -/
def Obligations.CostRequests : Prop :=
  (∀ (tag : Nat) (s : State), s.control.level ≠ .operator →
    (∀ (lot : Fin 32) (price : Nat), price ≤ 100000000 → exec (.tariffSet tag lot.val price) s =
      .next (reply tag .ok 0x38 (.tariff lot.val price s.cost.tariff[lot])
        { s with cost := { s.cost with tariff := s.cost.tariff.set lot price } })) ∧
    (∀ lot price, 32 ≤ lot ∨ 100000000 < price →
      exec (.tariffSet tag lot price) s = .next (reply tag .range 0x38 .none s)) ∧
    (∀ (m : Fin 16) (name : List Byte) (price : Nat) (adjustment : Int), name.length ≤ 16 →
      (∀ b ∈ name, 0x20 ≤ b.toNat ∧ b.toNat ≤ 0x7E) → price ≤ 1000000000 → -200 ≤ adjustment → adjustment ≤ 200 →
      exec (.mediaSet tag m.val name price adjustment) s =
        .next (reply tag .ok 0x39 (.mediaEntry m.val ⟨name, price, adjustment⟩)
          { s with cost := { s.cost with media := s.cost.media.set m ⟨name, price, adjustment⟩ } })) ∧
    (∀ (mediaType : Nat) (name : List Byte) (price : Nat) (adjustment : Int),
      16 ≤ mediaType ∨ 16 < name.length ∨ (∃ b ∈ name, b.toNat < 0x20 ∨ 0x7E < b.toNat) ∨ 1000000000 < price ∨
        adjustment < -200 ∨ 200 < adjustment →
      exec (.mediaSet tag mediaType name price adjustment) s = .next (reply tag .range 0x39 .none s))) ∧
  ∀ (tag : Nat) (s : State),
    (∀ r rest, s.cost.log = r :: rest →
      let a := releaseChecks (earlyFullCheck { s with cost := { s.cost with log := rest } })
      exec (.costDrop tag r.sequence) s =
        .next (reply tag .ok 0x3B (.costDropped r.sequence a.cost.log.length a.freeSpace) (finish a))) ∧
    (∀ r rest n, s.cost.log = r :: rest → n ≠ r.sequence →
      exec (.costDrop tag n) s = .next (reply tag .mismatch 0x3B (.oldestSequence r.sequence) s)) ∧
    (s.cost.log = [] → ∀ n, exec (.costDrop tag n) s = .next (reply tag .empty 0x3B .noRecord s))

/-- REFERENCE_LOAD writes an OPEN set whole and is PROTECTED on any other; REFERENCE_SEAL seals a set that holds patches
and is not SEALED, leaving its patches and tolerances (R107, R108). -/
def Obligations.ReferenceWrites : Prop :=
  ∀ (tag : Nat) (i : Fin 32) (s : State), s.control.level ≠ .operator →
    (∀ (patches : List Patch) (warn fail : Nat), referenceInRange patches.length patches warn fail = true →
      ((s.colour.sets[i]).mode = .opened →
        exec (.referenceLoad tag i.val patches.length patches warn fail) s =
          .next (reply tag .ok 0x28 (.refLoaded i.val patches.length .opened)
            { s with colour := { s.colour with sets := s.colour.sets.set i ⟨patches, warn, fail, .opened⟩ } })) ∧
      ((s.colour.sets[i]).mode ≠ .opened →
        exec (.referenceLoad tag i.val patches.length patches warn fail) s =
          .next (reply tag .isProtected 0x28 .none s))) ∧
    ((s.colour.sets[i]).patches ≠ [] → (s.colour.sets[i]).mode ≠ .sealed →
      exec (.referenceSeal tag i.val) s =
        .next (reply tag .ok 0x29 (.refMode i.val .sealed)
          { s with colour :=
            { s.colour with sets := s.colour.sets.set i { s.colour.sets[i] with mode := .sealed } } })) ∧
    ((s.colour.sets[i]).patches = [] ∨ (s.colour.sets[i]).mode = .sealed →
      exec (.referenceSeal tag i.val) s = .next (reply tag .state 0x29 .none s))

/-! ## Commands that move the machine

Each ends in `finish`: what can begin then begins, and the lines follow (R11, R21, R173, R190, R192). -/

/-- PRINT_SUBMIT with room and in range admits one WAITING record under the next free handle and runs the release
checks, a PROOF as it is described, an EDITION or ARTIST_PROOF print with the reference set of an edition of its media
type; a full queue is refused FULL before anything else is examined (R3 to R5). PRINT_RELEASE clears the held flag of a
WAITING print (R9). PRINT_CANCEL removes a WAITING or READY print, spoils an ACTIVE one and is TOO_LATE after (R22). -/
def Obligations.PrintRequests : Prop :=
  ∀ (tag : Nat) (s : State),
    let admitted := fun (kind : PrintKind) (d : PrintDescription) (refSet : Option Nat) =>
      let h := freeHandle (s.queue.prints.map (·.handle)) 9 s.queue.lastHandle
      let a := releaseChecks (printNotice h (.waiting []) { s with queue := { s.queue with
        prints := s.queue.prints ++ [newPrint h kind d refSet]
        submissions := (s.queue.submissions + 1) % 2 ^ 32
        lastHandle := h } })
      Host.Outcome.next (φ := Fault) (ρ := Refusal) (reply tag .ok 0x10 (submittedReply a) (finish a))
    (∀ d : PrintDescription, s.queue.prints.length < 8 → descriptionInRange d = true →
      (d.kindCode = 2 → exec (.printSubmit tag d) s = admitted .proof d d.refSet) ∧
      (∀ id e, d.editionId = some id → s.findEdition id = some e → e.mediaType = d.mediaType →
        (d.kindCode = 0 → exec (.printSubmit tag d) s = admitted .edition d (some e.refSet)) ∧
        (d.kindCode = 1 → exec (.printSubmit tag d) s = admitted .artistProof d (some e.refSet))) ∧
      (∀ id e, d.editionId = some id → s.findEdition id = some e → e.mediaType ≠ d.mediaType →
        exec (.printSubmit tag d) s = .next (reply tag .range 0x10 .none s)) ∧
      (∀ id, d.editionId = some id → s.findEdition id = none →
        exec (.printSubmit tag d) s = .next (reply tag .notFound 0x10 .none s))) ∧
    (∀ d : PrintDescription, 8 ≤ s.queue.prints.length →
      exec (.printSubmit tag d) s = .next (reply tag .full 0x10 .none s)) ∧
    (∀ d : PrintDescription, s.queue.prints.length < 8 → descriptionInRange d = false →
      exec (.printSubmit tag d) s = .next (reply tag .range 0x10 .none s)) ∧
    (∀ h p, s.findPrint h = some p → p.state = .waiting →
      let a := releaseChecks (s.mapPrint h fun q => { q with held := false })
      exec (.printRelease tag h) s = .next (reply tag .ok 0x11 (releasedReply h a) (finish a))) ∧
    (∀ h p, s.findPrint h = some p → p.state ≠ .waiting →
      exec (.printRelease tag h) s = .next (reply tag .state 0x11 .none s)) ∧
    (∀ h p, s.findPrint h = some p → p.state = .waiting ∨ p.state = .ready →
      exec (.printCancel tag h) s = .next (reply tag .ok 0x12 .cancelRemoved (finish (removePrint p s)))) ∧
    (∀ h p, s.findPrint h = some p → p.state = .active →
      exec (.printCancel tag h) s = .next (reply tag .ok 0x12 .cancelSpoiled (finish (spoilActive p true s)))) ∧
    (∀ h p, s.findPrint h = some p → p.state = .travel ∨ p.state = .scan ∨ p.state = .separate →
      exec (.printCancel tag h) s = .next (reply tag .tooLate 0x12 .none s)) ∧
    ∀ h, s.findPrint h = none →
      exec (.printRelease tag h) s = .next (reply tag .notFound 0x11 .none s) ∧
      exec (.printCancel tag h) s = .next (reply tag .notFound 0x12 .none s)

/-- CHANNEL_COLOUR at SERVICE writes a code 1..30 where the slot is not READING and no refill pumps or is suspended,
judges the cartridge in the slot against it, and is refused BUSY otherwise, and RANGE for a channel above 11 or any
other code (R26). CLEAR_FAULT naming a channel ends a refill in FAULT and is refused STATE otherwise (R44). -/
def Obligations.InkRequests : Prop :=
  ∀ (tag : Nat) (c : Chan) (s : State),
    (∀ code, s.control.level = .service → 1 ≤ code → code ≤ 30 →
      ((s.channel c).slot ≠ .reading → (s.channel c).refill ≠ .pumping → (s.channel c).refill ≠ .suspended →
        exec (.channelColour tag c.val code) s =
          .next (reply tag .ok 0x18 (.slot ((recolour c code s).channel c).slot) (finish (recolour c code s)))) ∧
      ((s.channel c).slot = .reading ∨ (s.channel c).refill = .pumping ∨ (s.channel c).refill = .suspended →
        exec (.channelColour tag c.val code) s = .next (reply tag .busy 0x18 .none s))) ∧
    (∀ channel code, s.control.level = .service → 12 ≤ channel ∨ code = 0 ∨ 30 < code →
      exec (.channelColour tag channel code) s = .next (reply tag .range 0x18 .none s)) ∧
    ((s.channel c).refill = .fault →
      exec (.clearFaultChannel tag c.val) s =
        .next (reply tag .ok 0x09 (.refillState ((endRefill c s).channel c).refill) (finish (endRefill c s)))) ∧
    ((s.channel c).refill ≠ .fault →
      exec (.clearFaultChannel tag c.val) s = .next (reply tag .state 0x09 .none s)) ∧
    ∀ n, 12 ≤ n → exec (.clearFaultChannel tag n) s = .next (reply tag .range 0x09 .none s)

/-- ROLL_LOAD and ROLL_CONFIRM (R70, R72): with the roll present, the transport not FAULTED and nothing in use, the
roll becomes VERIFIED at H = 1800, A = 1830 and last cut 1800, with L = 1800 plus ten times the length, or L − H kept;
the list is then emptied, the READY prints re-checked and the release checks run. The flag is ARMED and acts at once
on the new L and A, at a load too (the model's reading, log entry 36), and the reply is read before a start (the
model's reading, log entry 8). H is never beyond L + 1800 (log entry 30). A load or a confirmation out of range, of a
roll that is not there, or over work on the roll is refused. -/
def Obligations.RollBases : Prop :=
  ∀ (tag : Nat) (s : State),
    (s.inputs.rollPresent = true → s.media.state ≠ .faulted → s.queue.prints.any (·.onRoll) = false →
      s.positioned = none → s.media.feed = none →
      (∀ mediaType width length serial, s.inputs.rollEndMedia = true → mediaType ≤ 15 → 254 ≤ width → width ≤ 1626 →
        1 ≤ length → length ≤ 100000 →
        let a := newBase .rollLoad (.loaded mediaType width serial) { s with media := { s.media with
          rollState := .verified, lowFlag := .armed
          roll := ⟨mediaType, width, serial, 1800 + length * 10, 1800, 1830, 1800⟩ } }
        exec (.rollLoad tag mediaType width length serial) s =
          .next (reply tag .ok 0x20 (.rollGeometry a.media.roll.tail a.media.roll.head a.media.roll.alloc)
            (finish (haltUpdate a)))) ∧
      (s.media.rollState = .unverified → s.media.roll.head ≤ s.media.roll.tail + 1800 →
        let r := s.media.roll
        ∃ tail : Nat, (tail : Int) = 1800 + ((r.tail : Int) - r.head) ∧
          let a := newBase .rollConfirm (.confirmed r.mediaType r.width r.serial) { s with media := { s.media with
            rollState := .verified, lowFlag := .armed
            roll := ⟨r.mediaType, r.width, r.serial, tail, 1800, 1830, 1800⟩ } }
          exec (.rollConfirm tag) s =
            .next (reply tag .ok 0x21 (.rollGeometry a.media.roll.tail a.media.roll.head a.media.roll.alloc)
              (finish (haltUpdate a))))) ∧
    (s.media.rollState ≠ .unverified ∨ s.inputs.rollPresent = false ∨ s.media.state = .faulted →
      exec (.rollConfirm tag) s = .next (reply tag .state 0x21 .none s)) ∧
    (∀ mediaType width length serial,
      15 < mediaType ∨ width < 254 ∨ 1626 < width ∨ length < 1 ∨ 100000 < length →
      exec (.rollLoad tag mediaType width length serial) s = .next (reply tag .range 0x20 .none s)) ∧
    (∀ mediaType width length serial, mediaType ≤ 15 → 254 ≤ width → width ≤ 1626 → 1 ≤ length → length ≤ 100000 →
      (s.inputs.rollPresent = false ∨ s.inputs.rollEndMedia = false ∨ s.media.state = .faulted →
        exec (.rollLoad tag mediaType width length serial) s = .next (reply tag .state 0x20 .none s)) ∧
      (s.inputs.rollPresent = true → s.inputs.rollEndMedia = true → s.media.state ≠ .faulted →
        (s.queue.prints.any (·.onRoll) = true ∨ s.positioned ≠ none ∨ s.media.feed ≠ none) →
        exec (.rollLoad tag mediaType width length serial) s = .next (reply tag .busy 0x20 .none s))) ∧
    (s.media.rollState = .unverified → s.inputs.rollPresent = true → s.media.state ≠ .faulted →
      (s.queue.prints.any (·.onRoll) = true ∨ s.positioned ≠ none ∨ s.media.feed ≠ none) →
      exec (.rollConfirm tag) s = .next (reply tag .busy 0x21 .none s))

/-- MOVE with a roll, a free transport and a distance of at least 1 that ends no further than L + 1800 begins a MOVE feed
to H + d; it is refused, by the first that applies, STATE with no roll or a FAULTED transport, HELD while a hold is
present, BUSY with a feed or a stop, RANGE for 0 or a target beyond L + 1800 (R81). CLEAR_FAULT naming the transport ends
FAULTED where no work runs, and is refused STATE or BUSY otherwise (R83). -/
def Obligations.MoveAndClear : Prop :=
  ∀ (tag : Nat) (s : State),
    (∀ d, s.media.rollState ≠ .none → s.media.state ≠ .faulted → s.media.hold = .none → s.media.feed = none →
      s.media.state ≠ .stoppedAtStation → 1 ≤ d → s.media.roll.head + d ≤ s.media.roll.tail + 1800 →
      exec (.move tag d) s =
        .next (reply tag .ok 0x22 (.target (s.media.roll.head + d))
          (finish (advance { s with media := { s.media with
            feed := some ⟨.move, s.media.roll.head + d, s.media.roll.head, false⟩ } })))) ∧
    (∀ d, s.media.rollState = .none ∨ s.media.state = .faulted →
      exec (.move tag d) s = .next (reply tag .state 0x22 .none s)) ∧
    (s.media.rollState ≠ .none → s.media.state ≠ .faulted →
      (s.media.hold ≠ .none → ∀ d, exec (.move tag d) s = .next (reply tag .held 0x22 .none s)) ∧
      (s.media.hold = .none →
        (s.media.feed ≠ none ∨ s.media.state = .stoppedAtStation →
          ∀ d, exec (.move tag d) s = .next (reply tag .busy 0x22 .none s)) ∧
        (s.media.feed = none → s.media.state ≠ .stoppedAtStation →
          ∀ d, d = 0 ∨ s.media.roll.tail + 1800 < s.media.roll.head + d →
            exec (.move tag d) s = .next (reply tag .range 0x22 .none s)))) ∧
    (s.media.state = .faulted → s.workRunning = false →
      exec (.clearFaultTransport tag) s =
        .next (reply tag .ok 0x09 (.rollState (clearTransport s).media.rollState)
          (finish (stopIfHere (clearTransport s))))) ∧
    (s.media.state = .faulted → s.workRunning = true →
      exec (.clearFaultTransport tag) s = .next (reply tag .busy 0x09 .none s)) ∧
    (s.media.state ≠ .faulted → exec (.clearFaultTransport tag) s = .next (reply tag .state 0x09 .none s))

/-- CUT_AT and CUT_NOW (R100, R101): a cut between the last cut and L that no print protects, that is not listed yet
and whose trigger is not passed and not held by a movement, is listed, at its own trigger, 1800 dmm beyond its
position, or at the point under the cutter line. A cut at a position that is listed, or that the cutter is cutting now,
is refused EXISTS by CUT_AT (R98; after a new base taken during the cut, log entry 30). Each other refusal is the first
of its table that applies: RANGE for another chute, STATE with no roll, for CUT_NOW also FAULTED, then HELD and BUSY with a
hold and a feed or a stop, RANGE for the position, PROTECTED, EXISTS, for CUT_AT BUSY for a movement that holds the
trigger, and FULL at 16 entries. -/
def Obligations.ServerCuts : Prop :=
  (∀ (tag : Nat) (s : State) (chute : Chute), s.media.rollState ≠ .none →
    let code := (match chute with | .basket => 0 | .waste => 1 : Nat)
    let at_ := fun position : Nat => exec (.cutAt tag position code) s
    let now := exec (.cutNow tag code) s
    let listed := fun position : Nat => finish (stopIfHere { s with media := { s.media with
      stations := insertStation ⟨.cutServer, position, position + 1800, none, some chute⟩ s.media.stations } })
    (∀ position, position + 1800 < s.media.roll.head ∨ position ≤ s.media.roll.lastCut ∨ s.media.roll.tail ≤ position →
      at_ position = .next (reply tag .range 0x24 .none s)) ∧
    (∀ position, s.media.roll.head ≤ position + 1800 → s.media.roll.lastCut < position →
      position < s.media.roll.tail →
      (s.protectedAt position = true → at_ position = .next (reply tag .isProtected 0x24 .none s)) ∧
      (s.protectedAt position = false →
        (s.cutListed position = true ∨ s.cutRunsAt position = true →
          at_ position = .next (reply tag .exists_ 0x24 .none s)) ∧
        (s.cutListed position = false → s.cutRunsAt position = false →
          (s.movementHolds (position + 1800) = true → at_ position = .next (reply tag .busy 0x24 .none s)) ∧
          (s.movementHolds (position + 1800) = false →
            (16 ≤ s.media.stations.length → at_ position = .next (reply tag .full 0x24 .none s)) ∧
            (s.media.stations.length < 16 →
              at_ position = .next (reply tag .ok 0x24 (.trigger (position + 1800)) (listed position))))))) ∧
    (s.media.state = .faulted → now = .next (reply tag .state 0x25 .none s)) ∧
    (s.media.state ≠ .faulted →
      (s.media.hold ≠ .none → now = .next (reply tag .held 0x25 .none s)) ∧
      (s.media.hold = .none →
        (s.media.feed ≠ none ∨ s.media.state = .stoppedAtStation → now = .next (reply tag .busy 0x25 .none s)) ∧
        (s.media.feed = none → s.media.state ≠ .stoppedAtStation →
          let position := s.media.roll.head - 1800
          (position ≤ s.media.roll.lastCut ∨ s.media.roll.tail ≤ position →
            now = .next (reply tag .range 0x25 .none s)) ∧
          (s.media.roll.lastCut < position → position < s.media.roll.tail →
            (s.protectedAt position = true → now = .next (reply tag .isProtected 0x25 .none s)) ∧
            (s.protectedAt position = false →
              (s.cutListed position = true → now = .next (reply tag .exists_ 0x25 .none s)) ∧
              (s.cutListed position = false →
                (16 ≤ s.media.stations.length → now = .next (reply tag .full 0x25 .none s)) ∧
                (s.media.stations.length < 16 →
                  now = .next (reply tag .ok 0x25 (.cutPosition position) (listed position)))))))))) ∧
  ∀ (tag : Nat) (s : State),
    (∀ position code, 2 ≤ code → exec (.cutAt tag position code) s = .next (reply tag .range 0x24 .none s)) ∧
    (∀ code, 2 ≤ code → exec (.cutNow tag code) s = .next (reply tag .range 0x25 .none s)) ∧
    (s.media.rollState = .none →
      (∀ position code, code < 2 → exec (.cutAt tag position code) s = .next (reply tag .state 0x24 .none s)) ∧
      ∀ code, code < 2 → exec (.cutNow tag code) s = .next (reply tag .state 0x25 .none s))

/-- The edition requests at STUDIO or SERVICE (R131, R133, R135, R142, R143): OPEN adds an entry with every count 0;
HOLD takes an OPEN edition to HOLD, RESUME a held one to OPEN with its runs at 0, CLOSE any other than a CLOSED one
with no print queued to CLOSED, its id in the closed list, and ARCHIVE a CLOSED one out of the table. Each refusal is the
first that applies: for OPEN RANGE, EXISTS, CLOSED_ID, FULL, STATE for an empty set, PROTECTED for one it may not share
(R132); for the others NOT_FOUND, STATE, then BUSY with a print queued and, for CLOSE, FULL at 1024 closed ids. -/
def Obligations.EditionRequests : Prop :=
  ∀ (tag id : Nat) (s : State), s.control.level ≠ .operator →
    (∀ (title : List Byte) (limit apLimit refSet mediaType : Nat),
      editionInRange id title limit apLimit refSet mediaType = true → s.findEdition id = none →
      id ∉ s.registry.closedIds → s.registry.table.length < 64 → (s.refSet refSet).patches ≠ [] →
      mayShareSet s.registry.table (s.refSet refSet).mode refSet mediaType = true →
      exec (.editionOpen tag id title limit apLimit refSet mediaType) s =
        .next (reply tag .ok 0x30 (.edition id .opened) (finish (editionNotice Edition.openedNews id (releaseChecks
          { s with registry := { s.registry with table := s.registry.table ++
            [newEdition id title limit apLimit refSet mediaType (s.clock.day.getD 0)] } }))))) ∧
    (∀ (title : List Byte) (limit apLimit refSet mediaType : Nat),
      let opened := exec (.editionOpen tag id title limit apLimit refSet mediaType) s
      let refused := fun code => opened = .next (reply tag code 0x30 .none s)
      (editionInRange id title limit apLimit refSet mediaType = false → refused .range) ∧
      (editionInRange id title limit apLimit refSet mediaType = true →
        (s.findEdition id ≠ none → refused .exists_) ∧
        (s.findEdition id = none →
          (id ∈ s.registry.closedIds → refused .closedId) ∧
          (id ∉ s.registry.closedIds →
            (64 ≤ s.registry.table.length → refused .full) ∧
            (s.registry.table.length < 64 →
              ((s.refSet refSet).patches = [] → refused .state) ∧
              ((s.refSet refSet).patches ≠ [] →
                mayShareSet s.registry.table (s.refSet refSet).mode refSet mediaType = false →
                refused .isProtected)))))) ∧
    (∀ e, s.findEdition id = some e →
      (e.state ≠ .opened → exec (.editionHold tag id) s = .next (reply tag .state 0x31 .none s)) ∧
      (e.state ≠ .hold → exec (.editionResume tag id) s = .next (reply tag .state 0x32 .none s)) ∧
      (e.state = .closed → exec (.editionClose tag id) s = .next (reply tag .state 0x33 .none s)) ∧
      (e.state ≠ .closed → s.editionQueued id = true →
        exec (.editionClose tag id) s = .next (reply tag .busy 0x33 .none s)) ∧
      (e.state ≠ .closed → s.editionQueued id = false → 1024 ≤ s.registry.closedIds.length →
        exec (.editionClose tag id) s = .next (reply tag .full 0x33 .none s)) ∧
      (e.state ≠ .closed → exec (.editionArchive tag id) s = .next (reply tag .state 0x34 .none s)) ∧
      (e.state = .closed → s.editionQueued id = true →
        exec (.editionArchive tag id) s = .next (reply tag .busy 0x34 .none s))) ∧
    (∀ e, s.findEdition id = some e → e.state = .opened →
      let a := haltUpdate (holdEffects id
        (s.mapEdition id fun x => { x with state := .hold, holdCause := some .request }))
      exec (.editionHold tag id) s = .next (reply tag .ok 0x31 (editionStateReply id a) (finish a))) ∧
    (∀ e, s.findEdition id = some e → e.state = .hold →
      let a := editionNotice (fun _ => .resumed) id (releaseChecks
        (s.mapEdition id fun x => { x with state := .opened, holdCause := none, warnRun := 0, failRun := 0 }))
      exec (.editionResume tag id) s = .next (reply tag .ok 0x32 (resumedReply id a) (finish a))) ∧
    (∀ e, s.findEdition id = some e → e.state ≠ .closed → s.editionQueued id = false →
      s.registry.closedIds.length < 1024 →
      exec (.editionClose tag id) s =
        .next (reply tag .ok 0x33
          (.editionClosed .closed (s.clock.day.getD 0) (s.registry.closedIds.length + 1))
          (finish (releaseChecks (haltUpdate (editionNotice Edition.closedNews id (releaseSets (closeEdition id s)))))))) ∧
    (∀ e, s.findEdition id = some e → e.state = .closed → s.editionQueued id = false →
      let a := refreshPanel (haltUpdate (raise (.edition e.archivedNews e.counts)
        { s with registry := { s.registry with table := s.registry.table.filter fun x => x.id != id } }))
      exec (.editionArchive tag id) s = .next (reply tag .ok 0x34 (.editionsLeft a.registry.table.length) a)) ∧
    (s.findEdition id = none →
      exec (.editionHold tag id) s = .next (reply tag .notFound 0x31 .none s) ∧
      exec (.editionResume tag id) s = .next (reply tag .notFound 0x32 .none s) ∧
      exec (.editionClose tag id) s = .next (reply tag .notFound 0x33 .none s) ∧
      exec (.editionArchive tag id) s = .next (reply tag .notFound 0x34 .none s))

/-! ## Power-on and the three resets -/

/-- Right after POWER_ON (R203): the print queue, the station list and the receive list are empty, the access level is
OPERATOR, the day is unknown, the receivers are in HUNT, no cartridge is known, each slot with a cartridge is READING, and
the residues hold their checkpoints; the sets, the closed ids and the HALT routing are kept. With no print open at the
loss of power the sub-tanks and the cost log are as they were; with one, its reservation or the level, if that is less, is
drawn from each sub-tank, one ESTIMATED record of a spoil joins the log, the print's edition counts it, and the marker is
cleared (R204). A present roll comes back UNVERIFIED from its checkpoint, ENDED where the roll-end sensor shows no media,
and is NONE with no checkpoint or an ENDED one (R205). -/
def Obligations.PowerOnRestores : Prop :=
  ∀ (levels : SensorLevels) (s : State), (∀ c : Chan, ParcelLaw (s.store.ink[c]).level (s.store.ink[c]).parcels) →
    ∃ t, exec (.powerOn levels) s = .next t ∧
      t.queue = .initial ∧ t.media.stations = [] ∧ t.control.level = .operator ∧
      t.control.receiveList = [] ∧ t.links = ⟨.idle, .idle, .idle⟩ ∧ t.inputs = levels ∧ t.clock.day = none ∧
      (∀ c : Chan, t.meter.residues[c] = (s.store.ink[c]).residue ∧
        (t.channel c).cartridge = none ∧ (t.channel c).slot = if levels.cartridge[c] then .reading else .empty) ∧
      t.colour.sets = s.colour.sets ∧ t.registry.closedIds = s.registry.closedIds ∧
      t.engine.haltRouting = s.engine.haltRouting ∧ t.store.openPrint = none ∧
      (s.store.openPrint = none →
        (∀ c : Chan, (t.channel c).level = (s.store.ink[c]).level ∧
          (t.channel c).parcels = (s.store.ink[c]).parcels ∧ (t.channel c).lastPrice = (s.store.ink[c]).lastPrice) ∧
        t.cost.log = s.cost.log ∧
        t.registry.table = s.registry.table.map fun e => { e with inFlight := 0, apInFlight := 0 }) ∧
      (∀ m, s.store.openPrint = some m →
        let drawn := fun c : Chan => min m.reservation[c] (s.store.ink[c]).level
        (∀ c : Chan, (t.channel c).level = (s.store.ink[c]).level - drawn c ∧
          (t.channel c).parcels = (drawFrom (drawn c) (s.store.ink[c]).parcels).parcels) ∧
        ∃ r, t.cost.log = s.cost.log ++ [r] ∧ r.sequence = nextSequence s.cost.sequence ∧ r.handle = m.handle ∧
          r.jobTag = m.jobTag ∧ r.outcome = .spoiled ∧ r.estimated = true ∧ r.cutNone = true ∧ r.number = none ∧
          (∀ c : Chan, r.consumed[c] = drawn c) ∧
          t.registry.table = s.registry.table.map fun e =>
            if m.editionId = some e.id then
              { e with inFlight := 0, apInFlight := 0, spoiled := min 65535 (e.spoiled + 1)
                       wasteCost := min (2 ^ 64 - 1) (e.wasteCost + r.total) }
            else { e with inFlight := 0, apInFlight := 0 }) ∧
      (∀ r, s.store.roll = some r → r.state ≠ .ended → levels.rollPresent = true →
        (levels.rollEndMedia = true → t.media.rollState = .unverified ∧ t.media.roll = r.roll) ∧
        (levels.rollEndMedia = false → t.media.rollState = .ended ∧
          t.media.roll = { r.roll with tail := r.roll.head + Config.endSensorOffset })) ∧
      ((s.store.roll = none ∨ (∃ r, s.store.roll = some r ∧ r.state = .ended) ∨ levels.rollPresent = false) →
        t.media.rollState = .none)

/-- The RESET request ends in a reply OK with the access level OPERATOR, the queue empty of prints and the station list
of entries, a VERIFIED roll UNVERIFIED, the flush wait stopped and no flush due, and no pending scan or last sequence; the
other stored settings and tables, the masks, the colour codes, the contents of the sets, every closed id and every cost
record are kept. The reply counts the prints that the first pass removed and those it left, each of which is past READY
where the laws of the work hold, and gives the sequence numbers of the records that joined the log (R206, R207). -/
def Obligations.ResetEmptiesQueue : Prop :=
  ∀ (tag : Nat) (s : State), ∃ t sequences, exec (.reset tag) s = .next t ∧
    let kept := (s.queue.prints.map (·.handle)).foldl resetRemove s
    t.control.sendList.getLast? = some (.reply tag .ok 0x07
      (.reset (s.queue.prints.length - kept.queue.prints.length) kept.queue.prints.length sequences)) ∧
    (WorkLaw s → ∀ p ∈ kept.queue.prints, p.onRoll = true) ∧
    sequences = (t.cost.log.drop s.cost.log.length).map (·.sequence) ∧
    t.control.level = .operator ∧ t.queue.prints = [] ∧ t.media.stations = [] ∧
    t.media.rollState = (if s.media.rollState = .verified then .unverified else s.media.rollState) ∧
    t.queue.flushDeadline = none ∧ t.queue.flushDue = false ∧ t.colour.pending = none ∧ t.meter.lastSequence = none ∧
    t.stored = { s.stored with level := .operator } ∧
    (∀ k : NoticeKind, (t.notice k).mask = (s.notice k).mask) ∧
    (∀ c : Chan, (t.channel c).colourCode = (s.channel c).colourCode) ∧
    (∀ i : Fin 32, SetKept s.colour.sets[i] t.colour.sets[i]) ∧
    s.cost.log <+: t.cost.log ∧ s.registry.closedIds <+: t.registry.closedIds

/-- FACTORY_RESTORE at SERVICE with an empty queue and an idle transport writes the factory settings and tables,
empties the edition table, stops the calibration retry timer and sends nothing to the head (the model's reading of
R112 and R114, log entry 32); what follows keeps the stored values, the masks, the closed ids, the cost records and
the contents of every set (R188, R208); with a print in the queue, a feed or a stop it is refused BUSY. CLEAR_FAULT
naming the verdict latch clears a set latch and is refused STATE on a clear one (R175). -/
def Obligations.FactoryAndLatch : Prop :=
  ∀ (tag : Nat) (s : State),
    (s.control.level = .service → s.queue.prints = [] → s.media.feed = none → s.media.state ≠ .stoppedAtStation →
      let a := releaseSets { s with
        meter := { s.meter with
          dropTable := factoryDropTable, trims := Vector.replicate 12 4096, manualOn := false, manualRow := 12 }
        cost := { s.cost with tariff := Vector.replicate 32 0, media := Vector.replicate 16 .blank }
        control := { s.control with
          studioPassword := 0, servicePassword := 0, inkMargin := 5, policy := .reject, lamps := factoryLamps
          attnRouting := .all, notices := Vector.ofFn fun i : Fin 12 => { s.control.notices[i] with mask := false } }
        colour := { s.colour with retryDeadline := none }
        engine := { s.engine with haltRouting := .empty }
        registry := { s.registry with table := [] } }
      ∃ t, t = finish (releaseChecks (haltUpdate (flushUnmasked a))) ∧
        exec (.factoryRestore tag) s =
          .next (reply tag .ok 0x08
            (.restored s.registry.table.length (s.colour.fixedCount - a.colour.fixedCount)) t) ∧
        t.stored = a.stored ∧ (∀ k : NoticeKind, (t.notice k).mask = false) ∧
        s.registry.closedIds <+: t.registry.closedIds ∧ s.cost.log <+: t.cost.log ∧
        ∀ i : Fin 32, SetKept s.colour.sets[i] t.colour.sets[i]) ∧
    (s.control.level = .service →
      (s.queue.prints ≠ [] ∨ s.media.feed ≠ none ∨ s.media.state = .stoppedAtStation) →
      exec (.factoryRestore tag) s = .next (reply tag .busy 0x08 .none s)) ∧
    (∀ l, s.engine.latch = some l → exec (.clearFaultVerdictLatch tag) s =
      .next (reply tag .ok 0x09 (.latch l.count l.handle)
        (finish { s with engine := { s.engine with latch := none } }))) ∧
    (s.engine.latch = none → exec (.clearFaultVerdictLatch tag) s = .next (reply tag .state 0x09 .none s))

/-! ## The links -/

/-- A frame that fails its check, a length above 1024 and a gap of 50 ms put the receiver back in HUNT and raise the
link's counter, which stops at 65535, and on the control link a FRAME_FAULT notice carries the cause and the counter
(R179, R180); a completed control frame joins a receive list of fewer than 4 and is an OVERRUN otherwise (R181). The
faults are commands of their own that act on a receiver in any state, a gap with or without its timer running, and an
OVERRUN with room in the list joins it: the model's choice (log entry 5). -/
def Obligations.LinkFaults : Prop :=
  ∀ s : State,
    let fallen := fun k : LinkState => (⟨.hunt, none, min 65535 (k.faults + 1)⟩ : LinkState)
    let engineFallen := { s with links := { s.links with engine := fallen s.links.engine } }
    let spectroFallen := { s with links := { s.links with spectro := fallen s.links.spectro } }
    let controlFallen := { s with links := { s.links with control := fallen s.links.control } }
    let told := fun cause => raise (.frameFault cause (min 65535 (s.links.control.faults + 1))) controlFallen
    let late := fun k : LinkState => ∀ d, k.gapDeadline = some d → d ≤ s.clock.now
    exec (.frameCheckFault .engine) s = .next (refreshPanel engineFallen) ∧
    exec (.frameLengthFault .engine) s = .next (refreshPanel engineFallen) ∧
    exec (.frameCheckFault .spectro) s = .next (refreshPanel spectroFallen) ∧
    exec (.frameLengthFault .spectro) s = .next (refreshPanel spectroFallen) ∧
    exec (.frameCheckFault .control) s = .next (refreshPanel (told .check)) ∧
    exec (.frameLengthFault .control) s = .next (refreshPanel (told .length)) ∧
    (late s.links.control → exec (.gapTimeout .control) s = .next (refreshPanel (told .gap))) ∧
    (late s.links.engine → exec (.gapTimeout .engine) s = .next (refreshPanel engineFallen)) ∧
    (late s.links.spectro → exec (.gapTimeout .spectro) s = .next (refreshPanel spectroFallen)) ∧
    (∀ f, s.control.receiveList.length < 4 → exec (.overrun f) s =
      .next (refreshPanel { s with control := { s.control with receiveList := s.control.receiveList ++ [f] } })) ∧
    (∀ f, 4 ≤ s.control.receiveList.length → exec (.overrun f) s =
      .next (refreshPanel (raise (.frameFault .overrun (min 65535 (s.links.control.faults + 1)))
        { s with links := { s.links with control :=
          { s.links.control with faults := min 65535 (s.links.control.faults + 1) } } })))

/-- A byte in HUNT that is not A5h is discarded, and A5h starts a frame, with the gap timer 50 ms from it (R179); a frame
of an unknown kind is answered UNKNOWN_KIND (R182); a frame the spectro unit does not know changes nothing (R112); the
frames sent leave the send list from its front, and its fall from above 16 to 16 or fewer flushes the deferred kinds,
while a list still above 16 flushes nothing (R183). -/
def Obligations.LinkTraffic : Prop :=
  ∀ s : State,
    (∀ b : Byte, s.links.control.receiver = .hunt → b ≠ 0xA5#8 →
      exec (.linkByteReceived .control b) s = .next (refreshPanel s)) ∧
    (s.links.control.receiver = .hunt → exec (.linkByteReceived .control 0xA5#8) s =
      .next (refreshPanel { s with links := { s.links with control :=
        { s.links.control with receiver := .length none, gapDeadline := some (s.clock.now + 50) } } })) ∧
    (∀ tag kind, exec (.unknownKind tag kind) s = .next (reply tag .unknownKind kind .none s)) ∧
    (∀ f, exec (.spectroFrameIgnored f) s = .next s) ∧
    (∀ n, s.control.sendList.length ≤ 16 → exec (.sendListDrain n) s =
      .next (refreshPanel { s with control := { s.control with sendList := s.control.sendList.drop n } })) ∧
    (∀ n, 16 < s.control.sendList.length - n → exec (.sendListDrain n) s =
      .next (refreshPanel { s with control := { s.control with sendList := s.control.sendList.drop n } })) ∧
    (∀ n, 16 < s.control.sendList.length → s.control.sendList.length - n ≤ 16 → exec (.sendListDrain n) s =
      .next (refreshPanel (flushDeferred
        { s with control := { s.control with sendList := s.control.sendList.drop n } })))

/-! ## The engine -/

/-- ENGINE_READY while PRINTING is refused STATE; otherwise the engine is ASKING, what can start starts, and a READY not
answered by PRINT_GO is answered NOTHING (R166). A frame of an unknown kind is refused UNKNOWN_KIND, and starts a running
silence timer again (R164, R172). A frame of any kind that is taken while ENGINE_LOST holds ends it with a notice HEARD of
its kind and is then handled as any other (R172, R176); that the notice goes out first is the model's reading (log entry
38). The silence timer's expiry spoils the ACTIVE print, sends PRINT_STOP, and leaves ENGINE_LOST holding with a notice
that names the print (R172, R176); with no silence timer running nothing expires (the model's choice, log entry 4). -/
def Obligations.EngineReadyFrames : Prop :=
  (∀ (tag : Nat) (s : State), s.engine.lost = false →
    (s.engine.state = .printing → exec (.engineReady tag) s = .next (refreshPanel (s.tell (.refused tag .state)))) ∧
    (s.engine.state ≠ .printing → exec (.engineReady tag) s =
      .next (refreshPanel (answerReady (settle
        { s with engine := { s.engine with state := .asking, readyTag := some tag } })))) ∧
    ∀ kind, exec (.engineUnknownKind tag kind) s =
      .next (finish (State.tell { s with engine :=
        { s.engine with silence := s.engine.silence.map fun _ => s.clock.now + 30000 } }
        (.refused tag .unknownKind)))) ∧
  (∀ (tag : Nat) (s : State), s.engine.lost = true →
    let heard := fun kind : Nat =>
      haltUpdate (raise (.engine (.heard kind) s.engine.state) { s with engine := { s.engine with lost := false } })
    (∀ kind, (heard kind).engine.lost = false) ∧
    exec (.engineReady tag) s = exec (.engineReady tag) (heard 0x40) ∧
    (∀ r, exec (.swath tag r) s = exec (.swath tag r) (heard 0x41)) ∧
    (∀ h d, exec (.feedAsk tag h d) s = exec (.feedAsk tag h d) (heard 0x42)) ∧
    (∀ h, exec (.printDone tag h) s = exec (.printDone tag h) (heard 0x43)) ∧
    (∀ h cause, exec (.printFail tag h cause) s = exec (.printFail tag h cause) (heard 0x44)) ∧
    ∀ kind, exec (.engineUnknownKind tag kind) s = exec (.engineUnknownKind tag kind) (heard kind)) ∧
  ∀ s : State,
    (∀ d p, s.engine.silence = some d → s.active = some p → d ≤ s.clock.now →
      exec .silenceTimeout s =
        .next (finish (haltUpdate (engineNotice (.lost p.handle)
          ((spoilActive p true s).mapEngine fun e => { e with lost := true }))))) ∧
    (s.engine.silence = none → exec .silenceTimeout s = .next s)

/-- SWATH, FEED_ASK, PRINT_DONE and PRINT_FAIL for the ACTIVE print of a PRINTING engine (R168 to R170): a new report
is metered and a repeat is not, both answered TAKEN; a feed ask begins an ENGINE feed, no further than the print's
end, and its clipped mark is set where H and its distance go beyond that end, so that an ask of distance 0 at the end
has none, the model's reading (log entry 37); an ending has its effect and is answered TAKEN. The frame starts a
running silence timer again (R172). A print that becomes ACTIVE has its marker written, the transport held and
PRINT_GO sent (R14, R201). The end of imaging leaves it in TRAVEL, or in SEPARATE and ACCEPTED without a strip, and a
spoil in TRAVEL and SPOILED with its SCAN entry gone and its edition's counts moved; either leaves it no reservation,
the engine idle, the marker cleared, the hold ended, no feed ask, no remembered sequence, and the flush wait running
from now (R17, R18, R201). -/
def Obligations.EnginePrintFrames : Prop :=
  (∀ (tag : Nat) (p : PrintRecord) (s : State), s.engine.lost = false → s.engine.state = .printing →
    s.engine.stopped ≠ some p.handle → s.active = some p →
    let a := { s with engine := { s.engine with silence := s.engine.silence.map fun _ => s.clock.now + 30000 } }
    (∀ r : SwathReport, r.handle = p.handle → s.meter.lastSequence ≠ some r.sequence →
      exec (.swath tag r) s = .next ((finish (meterSwath p r a)).tell (.taken tag))) ∧
    (∀ r : SwathReport, r.handle = p.handle → s.meter.lastSequence = some r.sequence →
      exec (.swath tag r) s = .next ((finish a).tell (.taken tag))) ∧
    (∀ d sp, p.span = some sp → s.engine.feedAsk = none →
      exec (.feedAsk tag p.handle d) s =
        .next (finish (beginFeed .engine (min (s.media.roll.head + d) sp.stop)
          { s with engine := { s.engine with
            feedAsk := some ⟨tag, p.handle, d, decide (sp.stop < s.media.roll.head + d)⟩, silence := none } }))) ∧
    (∀ d, s.engine.feedAsk ≠ none → exec (.feedAsk tag p.handle d) s = .next (finish (a.tell (.refused tag .busy)))) ∧
    exec (.printDone tag p.handle) s = .next ((finish (finishImaging p a)).tell (.taken tag)) ∧
    (∀ cause, cause < 5 → exec (.printFail tag p.handle cause) s =
      .next ((finish (engineNotice (.fail p.handle cause) (spoilActive p false a))).tell (.taken tag))) ∧
    (∀ h cause, 5 ≤ cause → exec (.printFail tag h cause) s = .next (finish (a.tell (.refused tag .malformed))))) ∧
  ∀ (p : PrintRecord) (s : State), s.findPrint p.handle = some p →
    (let t := becomeActive p s;
      t.findPrint p.handle = some { p with state := .active, lastSwath := some s.clock.now } ∧
      t.store.openPrint = some ⟨p.handle, p.jobTag, p.kind, p.editionId, p.reservation, p.snapshotAtClose⟩ ∧
      t.media.hold = .engine p.handle ∧ t.media.state = .heldByEngine ∧ t.engine.state = .printing ∧
      t.engine.stopped = none ∧ t.queue.readyOrder = s.queue.readyOrder.filter (fun h => h != p.handle) ∧
      t.engine.sent = s.engine.sent ++
        [.printGo (s.engine.readyTag.getD 0) p.handle p.imageWidth p.spanLength p.mediaType]) ∧
    let left := fun t : State => t.engine.state = .idle ∧ t.engine.silence = none ∧ t.engine.feedAsk = none ∧
      t.store.openPrint = none ∧ t.media.hold = .none ∧ t.meter.lastSequence = none ∧
      t.queue.flushDeadline = some (s.clock.now + 10000)
    (p.state = .active → p.refSet.isSome = true → left (finishImaging p s) ∧
      (finishImaging p s).findPrint p.handle =
        some { p with state := .travel, reservation := Vector.replicate 12 0 }) ∧
    (p.state = .active → p.refSet = none → left (finishImaging p s) ∧
      (finishImaging p s).findPrint p.handle =
        some { p with state := .separate, outcome := some .accepted, reservation := Vector.replicate 12 0 }) ∧
    (p.state = .active → ∀ stop, left (spoilActive p stop s) ∧
      (spoilActive p stop s).findPrint p.handle =
        some { p with state := .travel, outcome := some .spoiled, reservation := Vector.replicate 12 0 } ∧
      (∀ e ∈ (spoilActive p stop s).media.stations, ¬(e.kind = .scan ∧ e.handle = some p.handle)) ∧
      ((spoilActive p true s).engine.stopped = some p.handle) ∧
      ∀ id e, p.editionId = some id → s.findEdition id = some e → ∃ d, (spoilActive p stop s).findEdition id = some d ∧
        d.spoiled = min 65535 (e.spoiled + 1) ∧ d.accepted = e.accepted ∧ d.rejected = e.rejected ∧
        d.warnRun = e.warnRun ∧ d.failRun = e.failRun ∧ d.state = e.state)

/-- A frame that names the stopped handle is refused STOPPED, or, as the ending of that print, answered TAKEN and the
handle forgotten; one outside PRINTING is refused STATE; and one that names another print than the ACTIVE one is refused
HANDLE (R168 to R171). Each starts a running silence timer again (R172). -/
def Obligations.EngineRefusals : Prop :=
  ∀ (tag h : Nat) (s : State), s.engine.lost = false →
    let a := { s with engine := { s.engine with silence := s.engine.silence.map fun _ => s.clock.now + 30000 } }
    let refused := fun why => Host.Outcome.next (φ := Fault) (ρ := Refusal) (finish (a.tell (.refused tag why)))
    let acknowledged := Host.Outcome.next (φ := Fault) (ρ := Refusal)
      ((finish { a with engine := { a.engine with stopped := none } }).tell (.taken tag))
    (s.engine.stopped = some h →
      (∀ r : SwathReport, r.handle = h → exec (.swath tag r) s = refused .stopped) ∧
      (∀ d, exec (.feedAsk tag h d) s = refused .stopped) ∧
      exec (.printDone tag h) s = acknowledged ∧
      ∀ cause, cause < 5 → exec (.printFail tag h cause) s = acknowledged) ∧
    (s.engine.stopped ≠ some h → s.engine.state ≠ .printing →
      (∀ r : SwathReport, r.handle = h → exec (.swath tag r) s = refused .state) ∧
      (∀ d, exec (.feedAsk tag h d) s = refused .state) ∧
      exec (.printDone tag h) s = refused .state ∧
      ∀ cause, cause < 5 → exec (.printFail tag h cause) s = refused .state) ∧
    (s.engine.stopped ≠ some h → s.engine.state = .printing → (∀ p, s.active = some p → p.handle ≠ h) →
      (∀ r : SwathReport, r.handle = h → exec (.swath tag r) s = refused .handle) ∧
      (∀ d, exec (.feedAsk tag h d) s = refused .handle) ∧
      exec (.printDone tag h) s = refused .handle ∧
      ∀ cause, cause < 5 → exec (.printFail tag h cause) s = refused .handle)

/-! ## The spectro head -/

/-- CALIBRATE with a free head and no pending scan sends CALIBRATE with the next tag, 1 after 255, with 6000 ms to answer
and no retry timer; it is refused BUSY otherwise (R114, R115). The answer or the timeout with the tag in flight ends
the calibration, and any other changes nothing, one that comes while the head is not CALIBRATING too (R112, R116). -/
def Obligations.Calibration : Prop :=
  ∀ (tag : Nat) (s : State),
    (s.colour.spectro = .idle → s.colour.pending = none →
      let n := if s.colour.lastTag = 255 then 1 else s.colour.lastTag + 1
      exec (.calibrate tag) s =
        .next (reply tag .ok 0x2B (.spectroTag n) { s with colour := { s.colour with
          retryDeadline := none, lastTag := n, sent := s.colour.sent ++ [.calibrate n]
          spectro := .calibrating n s.clock.now (s.clock.now + 6000) true } })) ∧
    (s.colour.spectro ≠ .idle ∨ s.colour.pending ≠ none →
      exec (.calibrate tag) s = .next (reply tag .busy 0x2B .none s)) ∧
    ((∀ t began deadline requested, s.colour.spectro ≠ .calibrating t began deadline requested) →
      exec (.calibrated tag) s = .next s ∧ ∀ cause, exec (.calibrationFault tag cause) s = .next s) ∧
    (∀ began deadline requested, s.colour.spectro = .calibrating tag began deadline requested →
      exec (.calibrated tag) s = .next (finish (completeCalibration requested s)) ∧
      (∀ cause, exec (.calibrationFault tag cause) s =
        .next (finish (failCalibration (.failedFault cause) requested s))) ∧
      (deadline ≤ s.clock.now → exec .calibrationTimeout s =
        .next (finish (failCalibration .failedTimeout requested s)))) ∧
    (∀ other began deadline requested, s.colour.spectro = .calibrating other began deadline requested →
      tag ≠ other → exec (.calibrated tag) s = .next s ∧ ∀ cause, exec (.calibrationFault tag cause) s = .next s) ∧
    (∀ d, s.colour.retryDeadline = some d → d ≤ s.clock.now → exec .calibrationRetryExpiry s =
      .next (refreshPanel (autoCalibrate { s with colour := { s.colour with retryDeadline := none } })))

/-- A scan in flight ends with its verdict at its answer or its timeout (R118): as many readings as patches raise the
scan count and are judged; another number, a fault and the timeout give UNCHECKED with their cause. A scan of a print
that the RESET request closed leaves a DISCARDED record alone (R119), without readings even where they came (the model's
reading, log entry 19). A verdict puts its outcome and number in the print's record and the print in SEPARATE; its edition
counts the outcome, numbers an accepted print with the new count, moves its runs, and becomes COMPLETE when both series
are full, or HOLD at two FAILs or three verdicts WARN or FAIL without a PASS (R136 to R138). -/
def Obligations.ScanEnds : Prop :=
  (∀ (tag began deadline : Nat) (stale discarded : Bool) (job : ScanJob) (s : State),
    s.colour.spectro = .scanning tag began deadline stale job discarded →
    let ends := fun (r : ScanResult) (a : State) =>
      Host.Outcome.next (φ := Fault) (ρ := Refusal)
        (finish (afterCommand (advance (endScan job tag stale discarded r a))))
    (∀ list : List Reading, list.length = job.patches.length →
      exec (.readings tag list) s =
        ends (completedResult job tag stale (s.gapOf job.handle) list)
          { s with colour := { s.colour with scanCount := min 65535 (s.colour.scanCount + 1) } }) ∧
    (∀ list : List Reading, list.length ≠ job.patches.length →
      exec (.readings tag list) s = ends (uncheckedResult .length (scanRecord job tag stale .length)) s) ∧
    (∀ cause, exec (.scanFault tag cause) s =
      ends (uncheckedResult (.fault cause) (scanRecord job tag stale (.fault cause))) s) ∧
    (deadline ≤ s.clock.now →
      exec .scanTimeout s = ends (uncheckedResult .timeout (scanRecord job tag stale .timeout)) s) ∧
    (∀ other list, other ≠ tag → exec (.readings other list) s = .next s) ∧
    (∀ other cause, other ≠ tag → exec (.scanFault other cause) s = .next s) ∧
    (discarded = true → ∀ r a, endScan job tag stale discarded r a =
      { a with colour := { a.colour with
        spectro := .idle, lastScan := some (scanRecord job tag stale .discarded) } })) ∧
  ∀ (p : PrintRecord) (o : PrintOutcome) (r : ScanResult) (s : State), s.findPrint p.handle = some p →
    let t := recordVerdict p o r s
    ∃ number, t.findPrint p.handle = some { p with
        verdict := some r.verdict, largestDE := r.largest.map (·.1), outcome := some o, number := number
        state := .separate } ∧
      (o ≠ .accepted → number = none) ∧
      ∀ id e, p.editionId = some id → s.findEdition id = some e → ∃ d, t.findEdition id = some d ∧
        (p.kind = .edition → d.inFlight = e.inFlight - 1 ∧ d.apInFlight = e.apInFlight ∧ d.apAccepted = e.apAccepted ∧
          (o = .accepted → d.accepted = e.accepted + 1 ∧ number = some d.accepted) ∧
          (o ≠ .accepted → d.accepted = e.accepted)) ∧
        (p.kind = .artistProof → d.apInFlight = e.apInFlight - 1 ∧ d.inFlight = e.inFlight ∧ d.accepted = e.accepted ∧
          (o = .accepted → d.apAccepted = e.apAccepted + 1 ∧ number = some d.apAccepted) ∧
          (o ≠ .accepted → d.apAccepted = e.apAccepted)) ∧
        d.rejected = (if o = .rejected then min 65535 (e.rejected + 1) else e.rejected) ∧
        (d.warnRun, d.failRun) = (match r.verdict with
          | .pass => (0, 0)
          | .warn => (min 255 (e.warnRun + 1), e.failRun)
          | .fail => (min 255 (e.warnRun + 1), min 255 (e.failRun + 1))
          | .unchecked => (e.warnRun, e.failRun)) ∧
        let full := d.accepted = e.limit ∧ d.apAccepted = e.apLimit
        (e.state = .opened ∨ e.state = .hold → full → d.state = .complete ∧ d.holdCause = none) ∧
        (e.state = .opened → ¬full → 2 ≤ d.failRun → d.state = .hold ∧ d.holdCause = some .failRun) ∧
        (e.state = .opened → ¬full → d.failRun < 2 → 3 ≤ d.warnRun → d.state = .hold ∧ d.holdCause = some .warnRun) ∧
        (e.state = .opened → ¬full → d.failRun < 2 → d.warnRun < 3 → d.state = .opened) ∧
        (e.state = .hold → ¬full → d.state = .hold ∧ d.holdCause = e.holdCause)

/-! ## Cartridges and refills -/

/-- An insertion into an EMPTY slot makes it READING and queues its read (R29); the end of the read under way, and its
timeout as a failed read, judge it (R28 to R30); a removal from a slot that is READING empties it (R29), and one from
a slot REFUSED, USABLE or SPENT settles and empties it (R33). The end of the write under way begins the next transfer;
a marking write that succeeded leaves the cartridge OPENED on its day, a failed one, by its timeout too, leaves it
FRESH (R28, R31). A read judges: a failed read or a tag out of range (its fill too, the model's choice, log entry 41)
is REFUSED(TAG) with no fields; else, with the lower of the tag's and the memory table's volume, a colour that is not
the channel's is REFUSED(COLOUR), a cartridge opened more than 180 days before a known day REFUSED(EXPIRED), one with
nothing left SPENT, and any other USABLE (R30). A fall of the sensor of an EMPTY slot changes the input alone (the
model's choice, log entry 15). -/
def Obligations.CartridgeEvents : Prop :=
  (∀ (c : Chan) (s : State),
    let present := fun b : Bool => { s with inputs := { s.inputs with cartridge := s.inputs.cartridge.set c b } }
    ((s.channel c).slot = .empty →
      exec (.cartridgeInserted c) s = .next (finish (beginRead c (present true))) ∧
      exec (.cartridgeRemoved c) s = .next (present false)) ∧
    ((s.channel c).slot = .reading →
      exec (.cartridgeRemoved c) s = .next (finish (firstReadOver c (removeUnread c (present false))))) ∧
    ((s.channel c).slot = .usable ∨ (s.channel c).slot = .spent ∨ (∃ r, (s.channel c).slot = .refused r) →
      exec (.cartridgeRemoved c) s = .next (finish (removeJudged c (present false)))) ∧
    (∀ rest, s.ink.tagQueue = .read c :: rest →
      (∀ result, exec (.tagReadDone result) s =
        .next (finish (firstReadOver c (readOutcome c result (beginTransfer rest s))))) ∧
      (∀ d, s.ink.tagDeadline = some d → d ≤ s.clock.now →
        exec .tagTransferTimeout s = .next (finish (firstReadOver c (readOutcome c none (beginTransfer rest s))))))) ∧
  ∀ (c : Chan) (rest : List TagTransfer) (s : State),
    (∀ day, s.ink.tagQueue = .mark c day :: rest →
      exec (.tagWriteDone false) s = .next (beginTransfer rest s) ∧
      ∃ t, exec (.tagWriteDone true) s = .next t ∧ t.ink.tagQueue = rest ∧
        (∀ k, (s.channel c).cartridge = some k →
          (t.channel c).cartridge = some { k with opened := true, openedDay := day }) ∧
        ∀ d : Chan, d ≠ c → t.channel d = s.channel d) ∧
    (∀ v ok, s.ink.tagQueue = .volume c v :: rest → exec (.tagWriteDone ok) s = .next (beginTransfer rest s)) ∧
    (∀ d, ((∃ day, s.ink.tagQueue = .mark c day :: rest) ∨ ∃ v, s.ink.tagQueue = .volume c v :: rest) →
      s.ink.tagDeadline = some d → d ≤ s.clock.now →
      exec .tagTransferTimeout s = .next (refreshPanel (beginTransfer rest s))) ∧
    (((readOutcome c none s).channel c).slot = .refused .tag ∧ ((readOutcome c none s).channel c).cartridge = none) ∧
    ∀ t : TagData,
      let u := readOutcome c (some t) s
      (tagInRange t = false → (u.channel c).slot = .refused .tag ∧ (u.channel c).cartridge = none) ∧
      (tagInRange t = true →
        ∃ k : Cartridge, (u.channel c).cartridge = some k ∧ k.serial = t.serial ∧ k.colour = t.colour ∧ k.lot = t.lot ∧
          k.fill = t.fill ∧ k.opened = t.opened ∧ k.openedDay = t.openedDay ∧
          ((∀ e ∈ s.ink.memory, e.serial ≠ t.serial) → k.remaining = t.remaining) ∧
          (∀ e, s.ink.memory.find? (fun x => x.serial == t.serial) = some e →
            k.remaining = min t.remaining e.remaining) ∧
          let expired := t.opened = true ∧ ∃ day, s.clock.day = some day ∧ t.openedDay + 180 < day
          (t.colour ≠ (s.channel c).colourCode → (u.channel c).slot = .refused .colour) ∧
          (t.colour = (s.channel c).colourCode → expired → (u.channel c).slot = .refused .expired) ∧
          (t.colour = (s.channel c).colourCode → ¬expired → k.remaining = 0 → (u.channel c).slot = .spent) ∧
          (t.colour = (s.channel c).colourCode → ¬expired → k.remaining ≠ 0 → (u.channel c).slot = .usable))

/-- A flow pulse counts while the pump runs, and completes the refill when 50 nL for each pulse reach the target
(R38); the refill timeout takes what was pumped and leaves FAULT (R40); the dry sense takes it and empties the
cartridge (R41), that of a refill which the completing pulse has just started too (log entry 43). None is heard
outside PUMPING. A channel in IDLE or WAITING that is reconsidered is IDLE above 36,000,000 nL, else WAITING without a
USABLE cartridge or a place for a parcel, else IDLE with a print ACTIVE at or above the print floor, else PUMPING
toward the lowest of 2,000,000 nL, what the cartridge holds and what the sub-tank takes, at the tariff of the lot
class, with the pump run, the refill marker written and the timeout running (R36, R37). -/
def Obligations.RefillEvents : Prop :=
  (∀ (c : Chan) (j : RefillJob) (s : State), (s.channel c).job = some j →
    ((s.channel c).refill = .pumping → (s.channel c).pumpRun = true →
      let counted := s.mapChannel c fun ch => { ch with job := some { j with pulses := j.pulses + 1 } }
      (50 * (j.pulses + 1) < j.target → exec (.flowPulse c) s = .next counted) ∧
      (j.target ≤ 50 * (j.pulses + 1) → exec (.flowPulse c) s = .next (finish (completeRefill c counted)))) ∧
    ((s.channel c).refill = .pumping →
      (∀ d, j.deadline = some d → d ≤ s.clock.now →
        exec (.refillTimeout c) s = .next (finish (faultRefill c j s))) ∧
      exec (.drySense c) s = .next (finish (handOn c s (endRefill c (updateIndication c (makeSpent c
        (setRemaining c 0 (take c s))))))))) ∧
  (∀ (c : Chan) (s : State), (s.channel c).refill ≠ .pumping →
    exec (.flowPulse c) s = .next s ∧ exec (.refillTimeout c) s = .next s ∧ exec (.drySense c) s = .next s) ∧
  ∀ (c : Chan) (s : State),
    let ch := s.channel c
    let t := reconsider c s
    (ch.refill ≠ .idle → ch.refill ≠ .waiting → t = s) ∧
    (ch.refill = .idle ∨ ch.refill = .waiting →
      (36000000 < ch.level → (t.channel c).refill = .idle) ∧
      (ch.level ≤ 36000000 →
        (ch.slot ≠ .usable ∨ 24 ≤ ch.parcels.length → (t.channel c).refill = .waiting) ∧
        (ch.slot = .usable → ch.parcels.length < 24 →
          (s.active.isSome = true → 12000000 ≤ ch.level → (t.channel c).refill = .idle) ∧
          (s.active = none ∨ ch.level < 12000000 → ∀ k, ch.cartridge = some k →
            (t.channel c).refill = .pumping ∧ (t.channel c).pumpRun = true ∧ t.store.refills[c] = true ∧
            ∃ j, (t.channel c).job = some j ∧ j.target = min 2000000 (min k.remaining (40000000 - ch.level)) ∧
              j.taken = 0 ∧ j.pulses = 0 ∧ j.lot = k.lot ∧ j.serial = k.serial ∧
              (∀ price, s.cost.tariff[k.lot]? = some price → j.price = price) ∧
              j.deadline = some (s.clock.now + (ceilDiv j.target 500 + 5000)))))) ∧
    ∀ d : Chan, d ≠ c → t.channel d = s.channel d

/-- A taking with ink pumped adds exactly the pumped volume to the level and to the parcel queue, takes it from the
cartridge, and stops the pump (R35, R38). -/
def Obligations.TakingMovesInk : Prop :=
  ∀ (c : Chan) (j : RefillJob) (k : Cartridge) (s : State), (s.channel c).job = some j →
    (s.channel c).cartridge = some k →
    ((take c s).channel c).level = (s.channel c).level + j.pumped ∧
    ((((take c s).channel c).parcels).map (·.volume)).sum =
      ((s.channel c).parcels.map (·.volume)).sum + j.pumped ∧
    ((take c s).channel c).cartridge = some { k with remaining := k.remaining - j.pumped } ∧
    ((take c s).channel c).pumpRun = false ∧
    ∀ d : Chan, d ≠ c → (take c s).channel d = s.channel d

/-! ## Transport, cutter and time -/

/-- The driver's arrival ends the movement under way with H at the end of its leg, closes the prints that await
tail-out where that is the tail-out position of an ENDED roll, and lets the transport go on; it is ignored without a
movement (R78, R85); the movement's timeout and the driver's fault input fault the transport, the input ignored while
FAULTED (R82); a changed sensor sends its notice, and the roll end under a VERIFIED or UNVERIFIED roll ends it (R73,
R84); the flush wait's expiry makes a flush due while anything but a server cut awaits the transport (R21). A timeout
or an expiry without its timer changes nothing (log entry 4), and the roll-end events act whatever level the sensor
was held at (log entry 15), both the model's choice. -/
def Obligations.TransportEvents : Prop :=
  ∀ s : State,
    (∀ m, s.media.movement = some m →
      (let a := releaseChecks { s with media := { s.media with
          movement := none, roll := { s.media.roll with head := m.target } } };
        exec .driverArrival s = .next (finish (advance
          (if a.media.rollState = .ended ∧ a.media.roll.head = a.media.roll.tail + 1800 then tailOut a else a))) ∧
        a.media.roll.head = m.target) ∧
      (m.deadline ≤ s.clock.now → exec .movementTimeout s = .next (finish (faultTransport .timeout s)))) ∧
    (s.media.movement = none → exec .driverArrival s = .next s ∧ exec .movementTimeout s = .next s) ∧
    (s.media.state ≠ .faulted → exec .driverFault s = .next (finish (faultTransport .driver s))) ∧
    (s.media.state = .faulted → exec .driverFault s = .next s) ∧
    (∀ level, s.inputs.rollPresent ≠ level → exec (.rollPresentChange level) s =
      .next (refreshPanel (rollNotice (.sensorRollPresent level)
        { s with inputs := { s.inputs with rollPresent := level } }))) ∧
    (s.media.rollState = .verified ∨ s.media.rollState = .unverified →
      exec .rollEnd s = .next (finish (rollEnds { s with inputs := { s.inputs with rollEndMedia := false } }))) ∧
    exec .rollEndSensorShowsMedia s =
      .next (refreshPanel (rollNotice (.sensorRollEnd true)
        { s with inputs := { s.inputs with rollEndMedia := true } })) ∧
    (∀ d, s.queue.flushDeadline = some d → d ≤ s.clock.now → exec .flushWaitExpiry s =
      .next (finish { s with queue := { s.queue with
        flushDeadline := none, flushDue := s.queue.flushDue || s.awaitsTransport } })) ∧
    (s.queue.flushDeadline = none → exec .flushWaitExpiry s = .next s)

/-- The cutter's events (R91, R92): the flap's settling in the chute stage fires the blade, with 5000 ms to complete;
the blade leaving rest is seen in the blade stage, and its return then completes the cut; the two limits fail the cut
at their stage. The lamps follow the blink timebase (R191), whose command takes time to the next whole 125 ms, the model's
choice (log entry 3); the day timer's expiry raises a known day by one, FFFFh to 0, and starts the next 86,400 s (R195). A
flap or blade input outside the stage that reads it changes the input's level alone (log entry 25), and the count of the
flap's readings is the model's own (log entry 33). -/
def Obligations.CutterAndTimeEvents : Prop :=
  ∀ s : State,
    let settled := { s with
      inputs := { s.inputs with flapSettled := true }
      cutter := { s.cutter with flapReads := s.cutter.flapReads + 1 } }
    let home := fun b : Bool => { s with inputs := { s.inputs with bladeHome := b } }
    (s.cutter.state = .settingChute → exec .flapSettled s =
      .next { settled with cutter := { settled.cutter with
        state := .cutting, fire := true, leftRest := false, settleDeadline := none
        bladeDeadline := some (s.clock.now + 5000) } }) ∧
    (s.cutter.state ≠ .settingChute → exec .flapSettled s = .next settled) ∧
    (s.cutter.state = .cutting → exec .bladeLeavesRest s =
      .next { home false with cutter := { s.cutter with leftRest := true } }) ∧
    (s.cutter.state ≠ .cutting →
      exec .bladeLeavesRest s = .next (home false) ∧ exec .bladeHome s = .next (home true)) ∧
    (s.cutter.state = .cutting → s.cutter.leftRest = true →
      exec .bladeHome s = .next (finish (completeCut (home true)))) ∧
    (∀ d, s.cutter.settleDeadline = some d → d ≤ s.clock.now →
      exec .settleLimitExpiry s = .next (finish (failCut .flap s))) ∧
    (∀ d, s.cutter.bladeDeadline = some d → d ≤ s.clock.now →
      exec .bladeLimitExpiry s = .next (finish (failCut .blade s))) ∧
    exec .blinkPeriod s =
      .next (refreshPanel { s with clock := { s.clock with now := (s.clock.now / 125 + 1) * 125 } }) ∧
    (∀ d day, s.clock.dayDeadline = some d → s.clock.day = some day → d ≤ s.clock.now →
      exec .dayTimerExpiry s =
        .next (refreshPanel { s with clock :=
          ⟨s.clock.now, some ((day + 1) % 65536), some (s.clock.now + 86400000)⟩ }))

/-! ## The rules of the shared operations -/

/-- A draw takes the oldest parcels first (R57): what is left is a suffix of the queue, its first parcel perhaps
smaller; the amounts drawn and the excess make up the volume; an excess leaves the queue empty; and the cost is the
price of each part drawn. -/
def Obligations.DrawOldestFirst : Prop :=
  ∀ (n : Nat) (parcels : List Parcel), (∀ p ∈ parcels, 0 < p.volume) →
    let total := (parcels.map (·.volume)).sum
    (total < n → drawFrom n parcels =
      ⟨[], (parcels.map fun p => p.volume * p.price).sum, parcels.getLast?.map (·.price),
       parcels.getLast?.map (·.price), n - total⟩) ∧
    (∀ gone p rest v, parcels = gone ++ p :: rest → 0 < v → v < p.volume →
      n = (gone.map (·.volume)).sum + v →
      drawFrom n parcels =
        ⟨{ p with volume := p.volume - v } :: rest, (gone.map fun q => q.volume * q.price).sum + v * p.price,
         gone.getLast?.map (·.price), some p.price, 0⟩) ∧
    (∀ gone rest, parcels = gone ++ rest → n = (gone.map (·.volume)).sum →
      drawFrom n parcels =
        ⟨rest, (gone.map fun q => q.volume * q.price).sum, gone.getLast?.map (·.price), gone.getLast?.map (·.price),
         0⟩)

/-- Metering loses nothing (R55): on each channel the debit and the new residue together are the raw volume times the
trim plus the old residue, and the new residue is below one nanolitre; the other channels keep theirs. After a reservation
repair the reservations of the READY and ACTIVE prints on its channel sum to no more than the channel's usable supply
(R61, R63, R64), where no two prints hold one handle, at most one is ACTIVE, and the ready order names the READY prints,
each once. -/
def Obligations.MeteringLosesNothing : Prop :=
  (∀ (c : Chan) (s : State), s.queue.prints.length ≤ 8 → (s.queue.prints.map (·.handle)).Nodup →
    (s.queue.prints.filter (·.state == .active)).length ≤ 1 → s.queue.readyOrder.Nodup →
    (∀ h, h ∈ s.queue.readyOrder ↔ ∃ p ∈ s.queue.prints, p.handle = h ∧ p.state = .ready) →
    (repair c s).committed c ≤ (repair c s).usable c ∧ (repair c s).usable c = s.usable c ∧
    (s.committed c ≤ s.usable c → repair c s = s)) ∧
  ∀ (h : Nat) (row : DropRow) (r : SwathReport) (s : State) (c : Chan),
    let t := meterChannel h row r s c
    let raw := r.drops[c].small * row.small + r.drops[c].medium * row.medium + r.drops[c].large * row.large
    (∃ debit, 409600000 * debit + t.meter.residues[c] = raw * s.meter.trims[c] + s.meter.residues[c] ∧
      (t.channel c).level = (s.channel c).level - (debit - (drawFrom debit (s.channel c).parcels).excess) ∧
      (t.channel c).parcels = (drawFrom debit (s.channel c).parcels).parcels ∧
      ∀ p, s.findPrint h = some p → ∃ q, t.findPrint h = some q ∧ q.consumed[c] = p.consumed[c] + debit ∧
        q.reservation[c] = p.reservation[c] - min p.reservation[c] debit) ∧
    t.meter.residues[c] < 409600000 ∧
    ∀ d : Chan, d ≠ c → t.meter.residues[d] = s.meter.residues[d] ∧ t.channel d = s.channel d

/-- The row of a report (R50): the manual row in manual mode; else the last row, or row 12 with none, for 7FFFh; else the
floor of (T − 100) / 20 clamped to 0..23. -/
def Obligations.RowRule : Prop :=
  ∀ (m : InkMeter) (t : Int),
    (m.manualOn = true → m.rowFor t = m.manualRow) ∧
    (m.manualOn = false →
      (t = 0x7FFF → (∀ r, m.lastRow = some r → m.rowFor t = r) ∧ (m.lastRow = none → m.rowFor t = 12)) ∧
      (t ≠ 0x7FFF →
        (t < 100 → (m.rowFor t).val = 0) ∧ (560 ≤ t → (m.rowFor t).val = 23) ∧
        (100 ≤ t → t < 560 → 20 * ((m.rowFor t).val : Int) ≤ t - 100 ∧ t - 100 < 20 * ((m.rowFor t).val : Int) + 20)))

/-- The verdict of a completed scan with fewer than three invalid readings (R123): FAIL for a patch over fail, a critical
patch over warn or more than four over warn; else WARN for a patch over warn; else PASS, downgraded to WARN when
calibration was stale at the send or a swath gap exceeded 120,000 ms, and only then with those causes recorded. With
three or more invalid readings it is UNCHECKED (R120). -/
def Obligations.VerdictRule : Prop :=
  ∀ (job : ScanJob) (tag : Nat) (stale : Bool) (gap : Nat) (readings : List Reading),
    let r := completedResult job tag stale gap readings
    let js := judgeReadings (warnEffective job.warn job.adjustment) (failEffective job.warn job.fail job.adjustment)
      job.patches readings
    let failing := (∃ j ∈ js, j.entry.overFail = true) ∨
      (∃ j ∈ js, j.patch.critical = true ∧ j.entry.overWarn = true) ∨
      4 < (js.filter fun j => j.entry.overWarn).length
    let warning := ∃ j ∈ js, j.entry.overWarn = true
    let few := (js.filter fun j => !j.entry.valid).length < 3
    (r.verdict = .unchecked ↔ ¬few) ∧
    (r.verdict = .fail ↔ few ∧ failing) ∧
    (r.verdict = .warn ↔ few ∧ ¬failing ∧ (warning ∨ stale = true ∨ 120000 < gap)) ∧
    (r.verdict = .pass ↔ few ∧ ¬failing ∧ ¬warning ∧ stale = false ∧ gap ≤ 120000) ∧
    (r.stalePass = true ↔ few ∧ ¬failing ∧ ¬warning ∧ stale = true) ∧
    (r.longGapPass = true ↔ few ∧ ¬failing ∧ ¬warning ∧ 120000 < gap)

/-- The judging of one reading (R122): the squared difference is exact, and a patch is over warn or over fail when it is
above the square of that tolerance, an equal one being within it; with targets and readings in range ΔL is at most
10,000, Δa and Δb at most 25,500, and it at most 1,400,500,000. A reading out of range is invalid and neither (R120). -/
def Obligations.JudgingRule : Prop :=
  ∀ (warn fail : Nat) (p : Patch) (r : Reading),
    let j := judgeReading warn fail p r
    let d := (r.valL - p.targetL) ^ 2 + (r.valA - p.targetA) ^ 2 + (r.valB - p.targetB) ^ 2
    let valid := 0 ≤ r.valL ∧ r.valL ≤ 10000 ∧ -12800 ≤ r.valA ∧ r.valA ≤ 12700 ∧ -12800 ≤ r.valB ∧ r.valB ≤ 12700
    j.entry.reading = r ∧ j.patch = p ∧
    (valid → j.entry.valid = true ∧ (∃ n : Nat, (n : Int) = d ∧ j.entry.squared = some n) ∧
      (j.entry.overWarn = true ↔ (warn : Int) ^ 2 < d) ∧ (j.entry.overFail = true ↔ (fail : Int) ^ 2 < d)) ∧
    (valid → patchInRange p = true →
      (r.valL - p.targetL).natAbs ≤ 10000 ∧ (r.valA - p.targetA).natAbs ≤ 25500 ∧
      (r.valB - p.targetB).natAbs ≤ 25500 ∧ d ≤ 1400500000) ∧
    (¬valid →
      j.entry.valid = false ∧ j.entry.squared = none ∧ j.entry.overWarn = false ∧ j.entry.overFail = false)

/-- The largest ΔE is the integer square root, rounded down, of the largest squared difference among the valid patches,
with the first patch in strip order that gives it; it is absent with no valid reading (R124). -/
def Obligations.LargestDifferenceRule : Prop :=
  (∀ n : Nat, squareRoot n ^ 2 ≤ n ∧ n < (squareRoot n + 1) ^ 2) ∧
  ∀ js : List Judged,
    (largestDifference js = none ↔ ∀ j ∈ js, j.entry.squared = none) ∧
    ∀ e k, largestDifference js = some (e, k) →
      ∃ j d, js[k - 1]? = some j ∧ 1 ≤ k ∧ j.entry.squared = some d ∧ e = squareRoot d ∧
        (∀ x ∈ js, ∀ d', x.entry.squared = some d' → d' ≤ d) ∧
        ∀ i x, i < k - 1 → js[i]? = some x → ∀ d', x.entry.squared = some d' → d' < d

/-- The effective tolerances (R121): warn plus the adjustment clamped to 50..2550, fail plus the adjustment clamped from
the effective warn tolerance to 2550. -/
def Obligations.ToleranceRule : Prop :=
  ∀ (warn fail : Nat) (adj : Int),
    (warnEffective warn adj : Int) = max 50 (min 2550 (warn + adj)) ∧
    (failEffective warn fail adj : Int) = max (warnEffective warn adj : Int) (min 2550 (fail + adj)) ∧
    50 ≤ warnEffective warn adj ∧ warnEffective warn adj ≤ failEffective warn fail adj ∧
    failEffective warn fail adj ≤ 2550 ∧ 2500 ≤ warnEffective warn adj ^ 2 ∧ failEffective warn fail adj ^ 2 ≤ 6502500

/-- The cartridge memory table (R32): a write for a serial it holds replaces that entry in its place; a write for a new
one adds an entry while fewer than 32 are present, and with 32 takes the place of the one written longest ago, counted
across the counter's wrap; and no two entries ever hold one serial. -/
def Obligations.MemoryTableRule : Prop :=
  ∀ (table : List MemoryEntry) (e : MemoryEntry), (table.map (·.serial)).Nodup → table.length ≤ 32 →
    ((writeEntry table e).map (·.serial)).Nodup ∧ (writeEntry table e).length ≤ 32 ∧ e ∈ writeEntry table e ∧
    (∀ x ∈ table, x.serial = e.serial → writeEntry table e = table.map fun y => if y.serial = e.serial then e else y) ∧
    ((∀ x ∈ table, x.serial ≠ e.serial) → table.length < 32 → writeEntry table e = table ++ [e]) ∧
    ((∀ x ∈ table, x.serial ≠ e.serial) → table.length = 32 →
      ∃ before old after, table = before ++ old :: after ∧ writeEntry table e = before ++ e :: after ∧
        ∀ x ∈ table, (e.stamp + 2 ^ 32 - x.stamp) % 2 ^ 32 ≤ (e.stamp + 2 ^ 32 - old.stamp) % 2 ^ 32)

/-- The handle allocator (R4): with at most 8 records in the queue it gives a handle 1..255 that none of them holds, the
first such value after the last one assigned, 255 followed by 1. -/
def Obligations.FreshHandle : Prop :=
  ∀ (used : List Nat) (last : Nat), used.length ≤ 8 → last ≤ 255 →
    let h := freeHandle used 9 last
    1 ≤ h ∧ h ≤ 255 ∧ h ∉ used ∧
    ∃ k, k < 9 ∧ h = Nat.iterate nextHandle (k + 1) last ∧ ∀ i, i < k → Nat.iterate nextHandle (i + 1) last ∈ used

/-- The release check (R6): each reason is given exactly when its condition fails, and with none the print is released.
The roll re-check visits the READY prints in ready order; a print stays where its media, its width and its length beyond
those that stay fit a roll that is not ENDED, and the others return in turn to WAITING with MEDIA, without reservations and
out of the ready order, before the release checks that follow (R10, R71). A start that fits writes
the span from the higher of A and H, moves A to 60 beyond its end, holds the transport, copies the media price, and lists
the lead cut where it is needed, the scan of a strip and the trailing cut, in place of the server cuts they cover or
replace; then it feeds to the span's start (R12, R13). -/
def Obligations.ReleaseCheck : Prop :=
  (∀ (m : MediaTransport) (base : Nat) (ps : List PrintRecord), (ps.map (·.handle)).Nodup →
    let failed := recheckFailures m base ps
    ∀ before p rest, ps = before ++ p :: rest →
      (p.handle ∉ failed ↔ m.roll.mediaType = p.mediaType ∧ p.imageWidth + 10 ≤ m.roll.width ∧ m.rollState ≠ .ended ∧
        base + ((before.filter fun q => decide (q.handle ∉ failed)).map fun q => q.spanLength + 60).sum +
          (p.spanLength + 60) ≤ m.roll.tail)) ∧
  (∀ s : State, rollRecheck s =
    (recheckFailures s.media (max s.media.roll.alloc s.media.roll.head + 30) s.readyPrints).foldl
      (fun t h => returnToWaiting h .media t) s) ∧
  (∀ (h : Nat) (reason : HeldReason) (p : PrintRecord) (s : State), s.findPrint h = some p →
    (p.state ≠ .ready → returnToWaiting h reason s = s) ∧
    (p.state = .ready → ∃ u q,
      returnToWaiting h reason s = releaseChecks (earlyFullCheck (printNotice h (.waiting [reason]) u)) ∧
      u.findPrint h = some q ∧ q.state = .waiting ∧ q.heldFor = [reason] ∧ (∀ c : Chan, q.reservation[c] = 0) ∧
      q.held = p.held ∧ u.queue.readyOrder = s.queue.readyOrder.filter (fun n => n != h) ∧
      u.queue.prints.map (·.handle) = s.queue.prints.map (·.handle) ∧
      ∀ n, n ≠ h → u.findPrint n = s.findPrint n)) ∧
  (∀ (p : PrintRecord) (rest : List PrintRecord) (s : State), s.startPossible = true → s.readyPrints = p :: rest →
    p.state = .ready →
    let start := max s.media.roll.alloc s.media.roll.head
    let stop := start + p.spanLength
    let lead := s.media.roll.lastCut < start - 30 ∧ s.cutListed (start - 30) = false
    (s.media.roll.tail < stop + 30 → startStep s = some (returnToWaiting p.handle .media s)) ∧
    (stop + 30 ≤ s.media.roll.tail → startHasRoom s p ⟨start, stop⟩ = false → startStep s = none) ∧
    (stop + 30 ≤ s.media.roll.tail → startHasRoom s p ⟨start, stop⟩ = true →
      ∃ t q, startStep s = some (beginFeed .positioning start t) ∧ t.findPrint p.handle = some q ∧
        q = { p with span := some ⟨start, stop⟩, snapshot := q.snapshot } ∧
        (∃ price, q.snapshot = some ⟨p.mediaType, s.media.roll.width, p.spanLength, price⟩ ∧
          ∀ e, s.cost.media[p.mediaType]? = some e → price = e.price) ∧
        t.media.roll = { s.media.roll with alloc := stop + 60 } ∧ t.media.hold = .positioning p.handle ∧
        t.queue.flushDue = false ∧
        ∀ e, e ∈ t.media.stations ↔
          (e ∈ s.media.stations ∧ ¬(e.kind = .cutServer ∧
            (start ≤ e.position ∧ e.position ≤ stop ∨ e.position = stop + 30))) ∨
          (lead ∧ e = ⟨.cutLead, start - 30, start - 30 + 1800, some p.handle, none⟩) ∨
          (p.refSet.isSome = true ∧ e = ⟨.scan, stop - 125, stop - 125 + 950, some p.handle, none⟩) ∨
          e = ⟨.cutTrail, stop + 30, stop + 1830, some p.handle, none⟩)) ∧
  ∀ (s : State) (p : PrintRecord),
    (.heldFlag ∈ s.heldReasons p ↔ p.held = true) ∧
    (.rollUnverified ∈ s.heldReasons p ↔ s.media.rollState = .unverified) ∧
    (.media ∈ s.heldReasons p ↔ s.media.rollState ≠ .unverified ∧
      ¬(s.media.rollState = .verified ∧ s.media.roll.mediaType = p.mediaType ∧ p.imageWidth + 10 ≤ s.media.roll.width ∧
        max s.media.roll.alloc s.media.roll.head + 30 + (s.claimedRoll + (p.spanLength + 60)) ≤ s.media.roll.tail)) ∧
    (.edition ∈ s.heldReasons p ↔ p.kind ≠ .proof ∧ ∀ id e, p.editionId = some id → s.findEdition id = some e →
      ¬(e.state = .opened ∧ (e.load p.kind).1 < (e.load p.kind).2)) ∧
    (∀ c : Chan, .ink c ∈ s.heldReasons p ↔
      ceilDiv (p.estimates[c] * (100 + s.control.inkMargin)) 100 ≠ 0 ∧
      s.usable c < s.committed c + ceilDiv (p.estimates[c] * (100 + s.control.inkMargin)) 100) ∧
    (.costSpace ∈ s.heldReasons p ↔ 128 ≤ s.cost.log.length + s.liveCount) ∧
    (s.heldReasons p = [] → s.findPrint p.handle = some p → p.state = .waiting →
      (visitWaiting s p.handle).queue.readyOrder = s.queue.readyOrder ++ [p.handle] ∧
      ∃ q, (visitWaiting s p.handle).findPrint p.handle = some q ∧ q.state = .ready ∧ q.heldFor = [] ∧
        ∀ c : Chan, q.reservation[c] = ceilDiv (p.estimates[c] * (100 + s.control.inkMargin)) 100)

/-- The costs of a closing print (R152, R153): each channel's ink cost is its numerator over a million to the nearest µu,
a half rounding up, 0 for a numerator of 0; the media cost is width times span length times price over ten million,
rounded alike; the total is the sum of the twelve rounded ink costs and the media cost; an ink cost or a total above
2^64 − 1 is recorded as 2^64 − 1. -/
def Obligations.CostRule : Prop :=
  ∀ (p : PrintRecord) (m : MediaSnapshot) (o : PrintOutcome) (sequence : Nat) (cutNone : Bool),
    p.snapshot = some m →
    let r := costRecordOf p o sequence cutNone
    (∀ c : Chan, r.inkCosts[c] = min (2 ^ 64 - 1) ((p.numerators[c] + 500000) / 1000000) ∧
      (p.numerators[c] = 0 → r.inkCosts[c] = 0)) ∧
    r.mediaCost = (m.width * m.spanLength * m.price + 5000000) / 10000000 ∧
    (m.width ≤ 1626 → m.spanLength ≤ 300000 → m.price ≤ 1000000000 → r.mediaCost ≤ 48780000000) ∧
    r.total = min (2 ^ 64 - 1) ((∑ c : Chan, r.inkCosts[c]) + r.mediaCost)

/-- The sequence number of the next record (R156) and a close (R157): one above the last, FFFFFFFFh followed by 1; the
close of a print that holds a handle appends one record with that number and that print's tag, which the counter
takes. A record is carried in 241 bytes (section 10.8). -/
def Obligations.SequenceRule : Prop :=
  (∀ n, n < 2 ^ 32 - 1 → nextSequence n = n + 1) ∧ nextSequence (2 ^ 32 - 1) = 1 ∧
  (∀ r : CostRecord, r.bytes.length = 241) ∧
  ∀ (h : Nat) (p : PrintRecord) (cutNone : Bool) (s : State), s.findPrint h = some p →
    ∃ r, (closePrint h cutNone s).cost.log = s.cost.log ++ [r] ∧
      r.sequence = nextSequence s.cost.sequence ∧ (closePrint h cutNone s).cost.sequence = r.sequence ∧
      r.handle = p.handle ∧ r.jobTag = p.jobTag ∧ r.cutNone = cutNone ∧ r.consumed = p.consumed ∧
      r.outcome = p.outcome.getD .spoiled

/-- An occurrence of a notice (R183, R185): masked, it is kept with its count, which stops at 255; unmasked, it is sent at
once with count 1 while the list holds fewer than 31 frames; else it is kept and its kind marked deferred. Nothing but
the send list and that kind's pending state changes. A notice is sent with tag 0 under its kind's code, 90h to 9Bh, its
count and its flags first, and a reply with its request's tag under 80h, its code and the request's kind first (R181, R184,
section 10.8). -/
def Obligations.NoticeRule : Prop :=
  (∀ (count : Nat) (flushed deferred : Bool) (b : NoticeBody),
    let f := (ControlFrame.notice count flushed deferred b).toFrame
    f.tag = 0 ∧ f.kind = BitVec.ofNat 8 (0x90 + b.kind.index.val) ∧
    f.body[0]? = some (BitVec.ofNat 8 count) ∧
    f.body[1]? = some (BitVec.ofNat 8 ((if flushed then 1 else 0) + (if deferred then 2 else 0)))) ∧
  (∀ (tag : Nat) (code : ReplyCode) (kind : Nat) (fields : ReplyFields),
    let f := (ControlFrame.reply tag code kind fields).toFrame
    f.tag = BitVec.ofNat 8 tag ∧ f.kind = 0x80 ∧
    f.body[0]? = some (BitVec.ofNat 8 code.byte) ∧ f.body[1]? = some (BitVec.ofNat 8 kind)) ∧
  ∀ (b : NoticeBody) (s : State),
    let n := s.notice b.kind
    (n.mask = true → raise b s = s.mapNotice b.kind fun _ =>
      ⟨true, min 255 (n.pending + 1), some b, n.deferred⟩) ∧
    (n.mask = false → s.control.sendList.length < 31 → raise b s =
      { s with control := { s.control with sendList := s.control.sendList ++ [.notice 1 false false b] } }) ∧
    (n.mask = false → 31 ≤ s.control.sendList.length → raise b s = s.mapNotice b.kind fun _ =>
      ⟨false, min 255 (n.pending + 1), some b, true⟩)

/-- HALT after it is worked out (R173, R174): it is asserted exactly while an enabled condition holds, once start-up is
done. A rise stops the silence timer and sends one ENGINE notice HALT_ON with the causes; a fall starts the timer where it
may run and sends one HALT_OFF; with no change nothing is sent (R172, R174, R176). -/
def Obligations.HaltRule : Prop :=
  ∀ s : State, s.startUp = .running →
    ((haltUpdate s).engine.halt = true ↔
      s.conditions.inkOut = true ∨ s.conditions.rollEnded = true ∨
      (s.conditions.cutFault = true ∧ s.engine.haltRouting.cutFault = true) ∨
      (s.conditions.transportFault = true ∧ s.engine.haltRouting.transportFault = true) ∨
      (s.conditions.editionHold = true ∧ s.engine.haltRouting.editionHold = true) ∨
      (s.conditions.verdictFailLatch = true ∧ s.engine.haltRouting.verdictFailLatch = true) ∨
      (s.conditions.refillFault = true ∧ s.engine.haltRouting.refillFault = true) ∨
      (s.conditions.engineLost = true ∧ s.engine.haltRouting.engineLost = true)) ∧
    (s.engine.halt = s.haltLevel → haltUpdate s = s) ∧
    (s.engine.halt = false → s.haltLevel = true → haltUpdate s =
      raise (.engine (.haltOn s.haltCauses) s.engine.state)
        { s with engine := { s.engine with halt := true, silence := none } }) ∧
    (s.engine.halt = true → s.haltLevel = false → haltUpdate s =
      raise (.engine .haltOff s.engine.state) { s with engine := { s.engine with
        halt := false
        silence := if s.engine.state = .printing ∧ s.engine.feedAsk = none then some (s.clock.now + 30000)
          else none } })

end Statements
end

