-- ==== Sys2Proof/Laws/State.lean ====
section
/-! SUPPORT. What each update of one record leaves in every field of State, true by rfl, so that no later proof unfolds
a record update. -/

namespace Sys2Proof.Machine

set_option Elab.async false

open Sys2Proof

variable (s : State)

section mapPrint

variable (h : Nat) (f : PrintRecord → PrintRecord)

@[simp] theorem State.mapPrint_pending : (s.mapPrint h f).pending = s.pending := rfl
@[simp] theorem State.mapPrint_startUp : (s.mapPrint h f).startUp = s.startUp := rfl
@[simp] theorem State.mapPrint_clock : (s.mapPrint h f).clock = s.clock := rfl
@[simp] theorem State.mapPrint_inputs : (s.mapPrint h f).inputs = s.inputs := rfl
@[simp] theorem State.mapPrint_queue :
    (s.mapPrint h f).queue =
      { s.queue with prints := s.queue.prints.map fun p => if p.handle == h then f p else p } := rfl
@[simp] theorem State.mapPrint_ink : (s.mapPrint h f).ink = s.ink := rfl
@[simp] theorem State.mapPrint_meter : (s.mapPrint h f).meter = s.meter := rfl
@[simp] theorem State.mapPrint_media : (s.mapPrint h f).media = s.media := rfl
@[simp] theorem State.mapPrint_cutter : (s.mapPrint h f).cutter = s.cutter := rfl
@[simp] theorem State.mapPrint_colour : (s.mapPrint h f).colour = s.colour := rfl
@[simp] theorem State.mapPrint_registry : (s.mapPrint h f).registry = s.registry := rfl
@[simp] theorem State.mapPrint_cost : (s.mapPrint h f).cost = s.cost := rfl
@[simp] theorem State.mapPrint_engine : (s.mapPrint h f).engine = s.engine := rfl
@[simp] theorem State.mapPrint_control : (s.mapPrint h f).control = s.control := rfl
@[simp] theorem State.mapPrint_links : (s.mapPrint h f).links = s.links := rfl
@[simp] theorem State.mapPrint_store : (s.mapPrint h f).store = s.store := rfl

end mapPrint

section dropPrint

variable (h : Nat)

@[simp] theorem State.dropPrint_pending : (s.dropPrint h).pending = s.pending := rfl
@[simp] theorem State.dropPrint_startUp : (s.dropPrint h).startUp = s.startUp := rfl
@[simp] theorem State.dropPrint_clock : (s.dropPrint h).clock = s.clock := rfl
@[simp] theorem State.dropPrint_inputs : (s.dropPrint h).inputs = s.inputs := rfl
@[simp] theorem State.dropPrint_queue :
    (s.dropPrint h).queue =
      { s.queue with
        prints := s.queue.prints.filter fun p => p.handle != h
        readyOrder := s.queue.readyOrder.filter fun r => r != h } := rfl
@[simp] theorem State.dropPrint_ink : (s.dropPrint h).ink = s.ink := rfl
@[simp] theorem State.dropPrint_meter : (s.dropPrint h).meter = s.meter := rfl
@[simp] theorem State.dropPrint_media : (s.dropPrint h).media = s.media := rfl
@[simp] theorem State.dropPrint_cutter : (s.dropPrint h).cutter = s.cutter := rfl
@[simp] theorem State.dropPrint_colour : (s.dropPrint h).colour = s.colour := rfl
@[simp] theorem State.dropPrint_registry : (s.dropPrint h).registry = s.registry := rfl
@[simp] theorem State.dropPrint_cost : (s.dropPrint h).cost = s.cost := rfl
@[simp] theorem State.dropPrint_engine : (s.dropPrint h).engine = s.engine := rfl
@[simp] theorem State.dropPrint_control : (s.dropPrint h).control = s.control := rfl
@[simp] theorem State.dropPrint_links : (s.dropPrint h).links = s.links := rfl
@[simp] theorem State.dropPrint_store : (s.dropPrint h).store = s.store := rfl

end dropPrint

section unready

variable (h : Nat)

@[simp] theorem State.unready_pending : (s.unready h).pending = s.pending := rfl
@[simp] theorem State.unready_startUp : (s.unready h).startUp = s.startUp := rfl
@[simp] theorem State.unready_clock : (s.unready h).clock = s.clock := rfl
@[simp] theorem State.unready_inputs : (s.unready h).inputs = s.inputs := rfl
@[simp] theorem State.unready_queue :
    (s.unready h).queue =
      { s.queue with readyOrder := s.queue.readyOrder.filter fun r => r != h } := rfl
@[simp] theorem State.unready_ink : (s.unready h).ink = s.ink := rfl
@[simp] theorem State.unready_meter : (s.unready h).meter = s.meter := rfl
@[simp] theorem State.unready_media : (s.unready h).media = s.media := rfl
@[simp] theorem State.unready_cutter : (s.unready h).cutter = s.cutter := rfl
@[simp] theorem State.unready_colour : (s.unready h).colour = s.colour := rfl
@[simp] theorem State.unready_registry : (s.unready h).registry = s.registry := rfl
@[simp] theorem State.unready_cost : (s.unready h).cost = s.cost := rfl
@[simp] theorem State.unready_engine : (s.unready h).engine = s.engine := rfl
@[simp] theorem State.unready_control : (s.unready h).control = s.control := rfl
@[simp] theorem State.unready_links : (s.unready h).links = s.links := rfl
@[simp] theorem State.unready_store : (s.unready h).store = s.store := rfl

end unready

section mapChannel

variable (c : Chan) (f : Channel → Channel)

@[simp] theorem State.mapChannel_pending : (s.mapChannel c f).pending = s.pending := rfl
@[simp] theorem State.mapChannel_startUp : (s.mapChannel c f).startUp = s.startUp := rfl
@[simp] theorem State.mapChannel_clock : (s.mapChannel c f).clock = s.clock := rfl
@[simp] theorem State.mapChannel_inputs : (s.mapChannel c f).inputs = s.inputs := rfl
@[simp] theorem State.mapChannel_queue : (s.mapChannel c f).queue = s.queue := rfl
@[simp] theorem State.mapChannel_ink :
    (s.mapChannel c f).ink =
      { s.ink with channels := s.ink.channels.set c (f (s.channel c)) } := rfl
@[simp] theorem State.mapChannel_meter : (s.mapChannel c f).meter = s.meter := rfl
@[simp] theorem State.mapChannel_media : (s.mapChannel c f).media = s.media := rfl
@[simp] theorem State.mapChannel_cutter : (s.mapChannel c f).cutter = s.cutter := rfl
@[simp] theorem State.mapChannel_colour : (s.mapChannel c f).colour = s.colour := rfl
@[simp] theorem State.mapChannel_registry : (s.mapChannel c f).registry = s.registry := rfl
@[simp] theorem State.mapChannel_cost : (s.mapChannel c f).cost = s.cost := rfl
@[simp] theorem State.mapChannel_engine : (s.mapChannel c f).engine = s.engine := rfl
@[simp] theorem State.mapChannel_control : (s.mapChannel c f).control = s.control := rfl
@[simp] theorem State.mapChannel_links : (s.mapChannel c f).links = s.links := rfl
@[simp] theorem State.mapChannel_store : (s.mapChannel c f).store = s.store := rfl

end mapChannel

section mapEdition

variable (id : Nat) (f : Edition → Edition)

@[simp] theorem State.mapEdition_pending : (s.mapEdition id f).pending = s.pending := rfl
@[simp] theorem State.mapEdition_startUp : (s.mapEdition id f).startUp = s.startUp := rfl
@[simp] theorem State.mapEdition_clock : (s.mapEdition id f).clock = s.clock := rfl
@[simp] theorem State.mapEdition_inputs : (s.mapEdition id f).inputs = s.inputs := rfl
@[simp] theorem State.mapEdition_queue : (s.mapEdition id f).queue = s.queue := rfl
@[simp] theorem State.mapEdition_ink : (s.mapEdition id f).ink = s.ink := rfl
@[simp] theorem State.mapEdition_meter : (s.mapEdition id f).meter = s.meter := rfl
@[simp] theorem State.mapEdition_media : (s.mapEdition id f).media = s.media := rfl
@[simp] theorem State.mapEdition_cutter : (s.mapEdition id f).cutter = s.cutter := rfl
@[simp] theorem State.mapEdition_colour : (s.mapEdition id f).colour = s.colour := rfl
@[simp] theorem State.mapEdition_registry :
    (s.mapEdition id f).registry =
      { s.registry with table := s.registry.table.map fun e => if e.id == id then f e else e } := rfl
@[simp] theorem State.mapEdition_cost : (s.mapEdition id f).cost = s.cost := rfl
@[simp] theorem State.mapEdition_engine : (s.mapEdition id f).engine = s.engine := rfl
@[simp] theorem State.mapEdition_control : (s.mapEdition id f).control = s.control := rfl
@[simp] theorem State.mapEdition_links : (s.mapEdition id f).links = s.links := rfl
@[simp] theorem State.mapEdition_store : (s.mapEdition id f).store = s.store := rfl

end mapEdition

section mapMedia

variable (f : MediaTransport → MediaTransport)

@[simp] theorem State.mapMedia_pending : (s.mapMedia f).pending = s.pending := rfl
@[simp] theorem State.mapMedia_startUp : (s.mapMedia f).startUp = s.startUp := rfl
@[simp] theorem State.mapMedia_clock : (s.mapMedia f).clock = s.clock := rfl
@[simp] theorem State.mapMedia_inputs : (s.mapMedia f).inputs = s.inputs := rfl
@[simp] theorem State.mapMedia_queue : (s.mapMedia f).queue = s.queue := rfl
@[simp] theorem State.mapMedia_ink : (s.mapMedia f).ink = s.ink := rfl
@[simp] theorem State.mapMedia_meter : (s.mapMedia f).meter = s.meter := rfl
@[simp] theorem State.mapMedia_media :
    (s.mapMedia f).media =
      f s.media := rfl
@[simp] theorem State.mapMedia_cutter : (s.mapMedia f).cutter = s.cutter := rfl
@[simp] theorem State.mapMedia_colour : (s.mapMedia f).colour = s.colour := rfl
@[simp] theorem State.mapMedia_registry : (s.mapMedia f).registry = s.registry := rfl
@[simp] theorem State.mapMedia_cost : (s.mapMedia f).cost = s.cost := rfl
@[simp] theorem State.mapMedia_engine : (s.mapMedia f).engine = s.engine := rfl
@[simp] theorem State.mapMedia_control : (s.mapMedia f).control = s.control := rfl
@[simp] theorem State.mapMedia_links : (s.mapMedia f).links = s.links := rfl
@[simp] theorem State.mapMedia_store : (s.mapMedia f).store = s.store := rfl

end mapMedia

section mapRoll

variable (f : RollGeometry → RollGeometry)

@[simp] theorem State.mapRoll_pending : (s.mapRoll f).pending = s.pending := rfl
@[simp] theorem State.mapRoll_startUp : (s.mapRoll f).startUp = s.startUp := rfl
@[simp] theorem State.mapRoll_clock : (s.mapRoll f).clock = s.clock := rfl
@[simp] theorem State.mapRoll_inputs : (s.mapRoll f).inputs = s.inputs := rfl
@[simp] theorem State.mapRoll_queue : (s.mapRoll f).queue = s.queue := rfl
@[simp] theorem State.mapRoll_ink : (s.mapRoll f).ink = s.ink := rfl
@[simp] theorem State.mapRoll_meter : (s.mapRoll f).meter = s.meter := rfl
@[simp] theorem State.mapRoll_media :
    (s.mapRoll f).media =
      { s.media with roll := f s.media.roll } := rfl
@[simp] theorem State.mapRoll_cutter : (s.mapRoll f).cutter = s.cutter := rfl
@[simp] theorem State.mapRoll_colour : (s.mapRoll f).colour = s.colour := rfl
@[simp] theorem State.mapRoll_registry : (s.mapRoll f).registry = s.registry := rfl
@[simp] theorem State.mapRoll_cost : (s.mapRoll f).cost = s.cost := rfl
@[simp] theorem State.mapRoll_engine : (s.mapRoll f).engine = s.engine := rfl
@[simp] theorem State.mapRoll_control : (s.mapRoll f).control = s.control := rfl
@[simp] theorem State.mapRoll_links : (s.mapRoll f).links = s.links := rfl
@[simp] theorem State.mapRoll_store : (s.mapRoll f).store = s.store := rfl

end mapRoll

section mapCutter

variable (f : Cutter → Cutter)

@[simp] theorem State.mapCutter_pending : (s.mapCutter f).pending = s.pending := rfl
@[simp] theorem State.mapCutter_startUp : (s.mapCutter f).startUp = s.startUp := rfl
@[simp] theorem State.mapCutter_clock : (s.mapCutter f).clock = s.clock := rfl
@[simp] theorem State.mapCutter_inputs : (s.mapCutter f).inputs = s.inputs := rfl
@[simp] theorem State.mapCutter_queue : (s.mapCutter f).queue = s.queue := rfl
@[simp] theorem State.mapCutter_ink : (s.mapCutter f).ink = s.ink := rfl
@[simp] theorem State.mapCutter_meter : (s.mapCutter f).meter = s.meter := rfl
@[simp] theorem State.mapCutter_media : (s.mapCutter f).media = s.media := rfl
@[simp] theorem State.mapCutter_cutter :
    (s.mapCutter f).cutter =
      f s.cutter := rfl
@[simp] theorem State.mapCutter_colour : (s.mapCutter f).colour = s.colour := rfl
@[simp] theorem State.mapCutter_registry : (s.mapCutter f).registry = s.registry := rfl
@[simp] theorem State.mapCutter_cost : (s.mapCutter f).cost = s.cost := rfl
@[simp] theorem State.mapCutter_engine : (s.mapCutter f).engine = s.engine := rfl
@[simp] theorem State.mapCutter_control : (s.mapCutter f).control = s.control := rfl
@[simp] theorem State.mapCutter_links : (s.mapCutter f).links = s.links := rfl
@[simp] theorem State.mapCutter_store : (s.mapCutter f).store = s.store := rfl

end mapCutter

section mapColour

variable (f : ColourUnit → ColourUnit)

@[simp] theorem State.mapColour_pending : (s.mapColour f).pending = s.pending := rfl
@[simp] theorem State.mapColour_startUp : (s.mapColour f).startUp = s.startUp := rfl
@[simp] theorem State.mapColour_clock : (s.mapColour f).clock = s.clock := rfl
@[simp] theorem State.mapColour_inputs : (s.mapColour f).inputs = s.inputs := rfl
@[simp] theorem State.mapColour_queue : (s.mapColour f).queue = s.queue := rfl
@[simp] theorem State.mapColour_ink : (s.mapColour f).ink = s.ink := rfl
@[simp] theorem State.mapColour_meter : (s.mapColour f).meter = s.meter := rfl
@[simp] theorem State.mapColour_media : (s.mapColour f).media = s.media := rfl
@[simp] theorem State.mapColour_cutter : (s.mapColour f).cutter = s.cutter := rfl
@[simp] theorem State.mapColour_colour :
    (s.mapColour f).colour =
      f s.colour := rfl
@[simp] theorem State.mapColour_registry : (s.mapColour f).registry = s.registry := rfl
@[simp] theorem State.mapColour_cost : (s.mapColour f).cost = s.cost := rfl
@[simp] theorem State.mapColour_engine : (s.mapColour f).engine = s.engine := rfl
@[simp] theorem State.mapColour_control : (s.mapColour f).control = s.control := rfl
@[simp] theorem State.mapColour_links : (s.mapColour f).links = s.links := rfl
@[simp] theorem State.mapColour_store : (s.mapColour f).store = s.store := rfl

end mapColour

section mapEngine

variable (f : EngineLink → EngineLink)

@[simp] theorem State.mapEngine_pending : (s.mapEngine f).pending = s.pending := rfl
@[simp] theorem State.mapEngine_startUp : (s.mapEngine f).startUp = s.startUp := rfl
@[simp] theorem State.mapEngine_clock : (s.mapEngine f).clock = s.clock := rfl
@[simp] theorem State.mapEngine_inputs : (s.mapEngine f).inputs = s.inputs := rfl
@[simp] theorem State.mapEngine_queue : (s.mapEngine f).queue = s.queue := rfl
@[simp] theorem State.mapEngine_ink : (s.mapEngine f).ink = s.ink := rfl
@[simp] theorem State.mapEngine_meter : (s.mapEngine f).meter = s.meter := rfl
@[simp] theorem State.mapEngine_media : (s.mapEngine f).media = s.media := rfl
@[simp] theorem State.mapEngine_cutter : (s.mapEngine f).cutter = s.cutter := rfl
@[simp] theorem State.mapEngine_colour : (s.mapEngine f).colour = s.colour := rfl
@[simp] theorem State.mapEngine_registry : (s.mapEngine f).registry = s.registry := rfl
@[simp] theorem State.mapEngine_cost : (s.mapEngine f).cost = s.cost := rfl
@[simp] theorem State.mapEngine_engine :
    (s.mapEngine f).engine =
      f s.engine := rfl
@[simp] theorem State.mapEngine_control : (s.mapEngine f).control = s.control := rfl
@[simp] theorem State.mapEngine_links : (s.mapEngine f).links = s.links := rfl
@[simp] theorem State.mapEngine_store : (s.mapEngine f).store = s.store := rfl

end mapEngine

section mapControl

variable (f : ControlLink → ControlLink)

@[simp] theorem State.mapControl_pending : (s.mapControl f).pending = s.pending := rfl
@[simp] theorem State.mapControl_startUp : (s.mapControl f).startUp = s.startUp := rfl
@[simp] theorem State.mapControl_clock : (s.mapControl f).clock = s.clock := rfl
@[simp] theorem State.mapControl_inputs : (s.mapControl f).inputs = s.inputs := rfl
@[simp] theorem State.mapControl_queue : (s.mapControl f).queue = s.queue := rfl
@[simp] theorem State.mapControl_ink : (s.mapControl f).ink = s.ink := rfl
@[simp] theorem State.mapControl_meter : (s.mapControl f).meter = s.meter := rfl
@[simp] theorem State.mapControl_media : (s.mapControl f).media = s.media := rfl
@[simp] theorem State.mapControl_cutter : (s.mapControl f).cutter = s.cutter := rfl
@[simp] theorem State.mapControl_colour : (s.mapControl f).colour = s.colour := rfl
@[simp] theorem State.mapControl_registry : (s.mapControl f).registry = s.registry := rfl
@[simp] theorem State.mapControl_cost : (s.mapControl f).cost = s.cost := rfl
@[simp] theorem State.mapControl_engine : (s.mapControl f).engine = s.engine := rfl
@[simp] theorem State.mapControl_control :
    (s.mapControl f).control =
      f s.control := rfl
@[simp] theorem State.mapControl_links : (s.mapControl f).links = s.links := rfl
@[simp] theorem State.mapControl_store : (s.mapControl f).store = s.store := rfl

end mapControl

section tell

variable (f : EngineFrame)

@[simp] theorem State.tell_pending : (s.tell f).pending = s.pending := rfl
@[simp] theorem State.tell_startUp : (s.tell f).startUp = s.startUp := rfl
@[simp] theorem State.tell_clock : (s.tell f).clock = s.clock := rfl
@[simp] theorem State.tell_inputs : (s.tell f).inputs = s.inputs := rfl
@[simp] theorem State.tell_queue : (s.tell f).queue = s.queue := rfl
@[simp] theorem State.tell_ink : (s.tell f).ink = s.ink := rfl
@[simp] theorem State.tell_meter : (s.tell f).meter = s.meter := rfl
@[simp] theorem State.tell_media : (s.tell f).media = s.media := rfl
@[simp] theorem State.tell_cutter : (s.tell f).cutter = s.cutter := rfl
@[simp] theorem State.tell_colour : (s.tell f).colour = s.colour := rfl
@[simp] theorem State.tell_registry : (s.tell f).registry = s.registry := rfl
@[simp] theorem State.tell_cost : (s.tell f).cost = s.cost := rfl
@[simp] theorem State.tell_engine :
    (s.tell f).engine =
      { s.engine with sent := s.engine.sent ++ [f] } := rfl
@[simp] theorem State.tell_control : (s.tell f).control = s.control := rfl
@[simp] theorem State.tell_links : (s.tell f).links = s.links := rfl
@[simp] theorem State.tell_store : (s.tell f).store = s.store := rfl

end tell

section command

variable (f : SpectroCommand)

@[simp] theorem State.command_pending : (s.command f).pending = s.pending := rfl
@[simp] theorem State.command_startUp : (s.command f).startUp = s.startUp := rfl
@[simp] theorem State.command_clock : (s.command f).clock = s.clock := rfl
@[simp] theorem State.command_inputs : (s.command f).inputs = s.inputs := rfl
@[simp] theorem State.command_queue : (s.command f).queue = s.queue := rfl
@[simp] theorem State.command_ink : (s.command f).ink = s.ink := rfl
@[simp] theorem State.command_meter : (s.command f).meter = s.meter := rfl
@[simp] theorem State.command_media : (s.command f).media = s.media := rfl
@[simp] theorem State.command_cutter : (s.command f).cutter = s.cutter := rfl
@[simp] theorem State.command_colour :
    (s.command f).colour =
      { s.colour with sent := s.colour.sent ++ [f] } := rfl
@[simp] theorem State.command_registry : (s.command f).registry = s.registry := rfl
@[simp] theorem State.command_cost : (s.command f).cost = s.cost := rfl
@[simp] theorem State.command_engine : (s.command f).engine = s.engine := rfl
@[simp] theorem State.command_control : (s.command f).control = s.control := rfl
@[simp] theorem State.command_links : (s.command f).links = s.links := rfl
@[simp] theorem State.command_store : (s.command f).store = s.store := rfl

end command

section mapNotice

variable (k : NoticeKind) (f : NoticeState → NoticeState)

@[simp] theorem State.mapNotice_pending : (s.mapNotice k f).pending = s.pending := rfl
@[simp] theorem State.mapNotice_startUp : (s.mapNotice k f).startUp = s.startUp := rfl
@[simp] theorem State.mapNotice_clock : (s.mapNotice k f).clock = s.clock := rfl
@[simp] theorem State.mapNotice_inputs : (s.mapNotice k f).inputs = s.inputs := rfl
@[simp] theorem State.mapNotice_queue : (s.mapNotice k f).queue = s.queue := rfl
@[simp] theorem State.mapNotice_ink : (s.mapNotice k f).ink = s.ink := rfl
@[simp] theorem State.mapNotice_meter : (s.mapNotice k f).meter = s.meter := rfl
@[simp] theorem State.mapNotice_media : (s.mapNotice k f).media = s.media := rfl
@[simp] theorem State.mapNotice_cutter : (s.mapNotice k f).cutter = s.cutter := rfl
@[simp] theorem State.mapNotice_colour : (s.mapNotice k f).colour = s.colour := rfl
@[simp] theorem State.mapNotice_registry : (s.mapNotice k f).registry = s.registry := rfl
@[simp] theorem State.mapNotice_cost : (s.mapNotice k f).cost = s.cost := rfl
@[simp] theorem State.mapNotice_engine : (s.mapNotice k f).engine = s.engine := rfl
@[simp] theorem State.mapNotice_control :
    (s.mapNotice k f).control =
      { s.control with notices := s.control.notices.set k.index (f s.control.notices[k.index]) } := rfl
@[simp] theorem State.mapNotice_links : (s.mapNotice k f).links = s.links := rfl
@[simp] theorem State.mapNotice_store : (s.mapNotice k f).store = s.store := rfl

end mapNotice

section push

variable (f : ControlFrame)

@[simp] theorem State.push_pending : (s.push f).pending = s.pending := rfl
@[simp] theorem State.push_startUp : (s.push f).startUp = s.startUp := rfl
@[simp] theorem State.push_clock : (s.push f).clock = s.clock := rfl
@[simp] theorem State.push_inputs : (s.push f).inputs = s.inputs := rfl
@[simp] theorem State.push_queue : (s.push f).queue = s.queue := rfl
@[simp] theorem State.push_ink : (s.push f).ink = s.ink := rfl
@[simp] theorem State.push_meter : (s.push f).meter = s.meter := rfl
@[simp] theorem State.push_media : (s.push f).media = s.media := rfl
@[simp] theorem State.push_cutter : (s.push f).cutter = s.cutter := rfl
@[simp] theorem State.push_colour : (s.push f).colour = s.colour := rfl
@[simp] theorem State.push_registry : (s.push f).registry = s.registry := rfl
@[simp] theorem State.push_cost : (s.push f).cost = s.cost := rfl
@[simp] theorem State.push_engine : (s.push f).engine = s.engine := rfl
@[simp] theorem State.push_control :
    (s.push f).control =
      { s.control with sendList := s.control.sendList ++ [f] } := rfl
@[simp] theorem State.push_links : (s.push f).links = s.links := rfl
@[simp] theorem State.push_store : (s.push f).store = s.store := rfl

end push

/-! ## timeTo -/

@[simp] theorem timeTo_pending (d : Nat) : (timeTo d s).pending = s.pending := rfl
@[simp] theorem timeTo_startUp (d : Nat) : (timeTo d s).startUp = s.startUp := rfl
@[simp] theorem timeTo_clock (d : Nat) :
    (timeTo d s).clock =
      { s.clock with now := max s.clock.now d } := rfl
@[simp] theorem timeTo_inputs (d : Nat) : (timeTo d s).inputs = s.inputs := rfl
@[simp] theorem timeTo_queue (d : Nat) : (timeTo d s).queue = s.queue := rfl
@[simp] theorem timeTo_ink (d : Nat) : (timeTo d s).ink = s.ink := rfl
@[simp] theorem timeTo_meter (d : Nat) : (timeTo d s).meter = s.meter := rfl
@[simp] theorem timeTo_media (d : Nat) : (timeTo d s).media = s.media := rfl
@[simp] theorem timeTo_cutter (d : Nat) : (timeTo d s).cutter = s.cutter := rfl
@[simp] theorem timeTo_colour (d : Nat) : (timeTo d s).colour = s.colour := rfl
@[simp] theorem timeTo_registry (d : Nat) : (timeTo d s).registry = s.registry := rfl
@[simp] theorem timeTo_cost (d : Nat) : (timeTo d s).cost = s.cost := rfl
@[simp] theorem timeTo_engine (d : Nat) : (timeTo d s).engine = s.engine := rfl
@[simp] theorem timeTo_control (d : Nat) : (timeTo d s).control = s.control := rfl
@[simp] theorem timeTo_links (d : Nat) : (timeTo d s).links = s.links := rfl
@[simp] theorem timeTo_store (d : Nat) : (timeTo d s).store = s.store := rfl

/-! ## setOpenMarker -/

@[simp] theorem setOpenMarker_pending (m : Option OpenMarker) : (setOpenMarker m s).pending = s.pending := rfl
@[simp] theorem setOpenMarker_startUp (m : Option OpenMarker) : (setOpenMarker m s).startUp = s.startUp := rfl
@[simp] theorem setOpenMarker_clock (m : Option OpenMarker) : (setOpenMarker m s).clock = s.clock := rfl
@[simp] theorem setOpenMarker_inputs (m : Option OpenMarker) : (setOpenMarker m s).inputs = s.inputs := rfl
@[simp] theorem setOpenMarker_queue (m : Option OpenMarker) : (setOpenMarker m s).queue = s.queue := rfl
@[simp] theorem setOpenMarker_ink (m : Option OpenMarker) : (setOpenMarker m s).ink = s.ink := rfl
@[simp] theorem setOpenMarker_meter (m : Option OpenMarker) : (setOpenMarker m s).meter = s.meter := rfl
@[simp] theorem setOpenMarker_media (m : Option OpenMarker) : (setOpenMarker m s).media = s.media := rfl
@[simp] theorem setOpenMarker_cutter (m : Option OpenMarker) : (setOpenMarker m s).cutter = s.cutter := rfl
@[simp] theorem setOpenMarker_colour (m : Option OpenMarker) : (setOpenMarker m s).colour = s.colour := rfl
@[simp] theorem setOpenMarker_registry (m : Option OpenMarker) : (setOpenMarker m s).registry = s.registry := rfl
@[simp] theorem setOpenMarker_cost (m : Option OpenMarker) : (setOpenMarker m s).cost = s.cost := rfl
@[simp] theorem setOpenMarker_engine (m : Option OpenMarker) : (setOpenMarker m s).engine = s.engine := rfl
@[simp] theorem setOpenMarker_control (m : Option OpenMarker) : (setOpenMarker m s).control = s.control := rfl
@[simp] theorem setOpenMarker_links (m : Option OpenMarker) : (setOpenMarker m s).links = s.links := rfl
@[simp] theorem setOpenMarker_store (m : Option OpenMarker) :
    (setOpenMarker m s).store =
      { s.store with openPrint := m } := rfl

/-! ## setRefillMarker -/

@[simp] theorem setRefillMarker_pending (c : Chan) (b : Bool) : (setRefillMarker c b s).pending = s.pending := rfl
@[simp] theorem setRefillMarker_startUp (c : Chan) (b : Bool) : (setRefillMarker c b s).startUp = s.startUp := rfl
@[simp] theorem setRefillMarker_clock (c : Chan) (b : Bool) : (setRefillMarker c b s).clock = s.clock := rfl
@[simp] theorem setRefillMarker_inputs (c : Chan) (b : Bool) : (setRefillMarker c b s).inputs = s.inputs := rfl
@[simp] theorem setRefillMarker_queue (c : Chan) (b : Bool) : (setRefillMarker c b s).queue = s.queue := rfl
@[simp] theorem setRefillMarker_ink (c : Chan) (b : Bool) : (setRefillMarker c b s).ink = s.ink := rfl
@[simp] theorem setRefillMarker_meter (c : Chan) (b : Bool) : (setRefillMarker c b s).meter = s.meter := rfl
@[simp] theorem setRefillMarker_media (c : Chan) (b : Bool) : (setRefillMarker c b s).media = s.media := rfl
@[simp] theorem setRefillMarker_cutter (c : Chan) (b : Bool) : (setRefillMarker c b s).cutter = s.cutter := rfl
@[simp] theorem setRefillMarker_colour (c : Chan) (b : Bool) : (setRefillMarker c b s).colour = s.colour := rfl
@[simp] theorem setRefillMarker_registry (c : Chan) (b : Bool) : (setRefillMarker c b s).registry = s.registry := rfl
@[simp] theorem setRefillMarker_cost (c : Chan) (b : Bool) : (setRefillMarker c b s).cost = s.cost := rfl
@[simp] theorem setRefillMarker_engine (c : Chan) (b : Bool) : (setRefillMarker c b s).engine = s.engine := rfl
@[simp] theorem setRefillMarker_control (c : Chan) (b : Bool) : (setRefillMarker c b s).control = s.control := rfl
@[simp] theorem setRefillMarker_links (c : Chan) (b : Bool) : (setRefillMarker c b s).links = s.links := rfl
@[simp] theorem setRefillMarker_store (c : Chan) (b : Bool) :
    (setRefillMarker c b s).store =
      { s.store with refills := s.store.refills.set c b } := rfl

/-! ## unlist -/

@[simp] theorem unlist_pending (t : Station → Bool) : (unlist t s).pending = s.pending := rfl
@[simp] theorem unlist_startUp (t : Station → Bool) : (unlist t s).startUp = s.startUp := rfl
@[simp] theorem unlist_clock (t : Station → Bool) : (unlist t s).clock = s.clock := rfl
@[simp] theorem unlist_inputs (t : Station → Bool) : (unlist t s).inputs = s.inputs := rfl
@[simp] theorem unlist_queue (t : Station → Bool) : (unlist t s).queue = s.queue := rfl
@[simp] theorem unlist_ink (t : Station → Bool) : (unlist t s).ink = s.ink := rfl
@[simp] theorem unlist_meter (t : Station → Bool) : (unlist t s).meter = s.meter := rfl
@[simp] theorem unlist_media (t : Station → Bool) :
    (unlist t s).media =
      { s.media with stations := s.media.stations.filter fun e => !t e } := rfl
@[simp] theorem unlist_cutter (t : Station → Bool) : (unlist t s).cutter = s.cutter := rfl
@[simp] theorem unlist_colour (t : Station → Bool) : (unlist t s).colour = s.colour := rfl
@[simp] theorem unlist_registry (t : Station → Bool) : (unlist t s).registry = s.registry := rfl
@[simp] theorem unlist_cost (t : Station → Bool) : (unlist t s).cost = s.cost := rfl
@[simp] theorem unlist_engine (t : Station → Bool) : (unlist t s).engine = s.engine := rfl
@[simp] theorem unlist_control (t : Station → Bool) : (unlist t s).control = s.control := rfl
@[simp] theorem unlist_links (t : Station → Bool) : (unlist t s).links = s.links := rfl
@[simp] theorem unlist_store (t : Station → Bool) : (unlist t s).store = s.store := rfl

/-! ## listStation -/

@[simp] theorem listStation_pending (e : Station) : (listStation e s).pending = s.pending := rfl
@[simp] theorem listStation_startUp (e : Station) : (listStation e s).startUp = s.startUp := rfl
@[simp] theorem listStation_clock (e : Station) : (listStation e s).clock = s.clock := rfl
@[simp] theorem listStation_inputs (e : Station) : (listStation e s).inputs = s.inputs := rfl
@[simp] theorem listStation_queue (e : Station) : (listStation e s).queue = s.queue := rfl
@[simp] theorem listStation_ink (e : Station) : (listStation e s).ink = s.ink := rfl
@[simp] theorem listStation_meter (e : Station) : (listStation e s).meter = s.meter := rfl
@[simp] theorem listStation_media (e : Station) :
    (listStation e s).media =
      { s.media with stations := insertStation e s.media.stations } := rfl
@[simp] theorem listStation_cutter (e : Station) : (listStation e s).cutter = s.cutter := rfl
@[simp] theorem listStation_colour (e : Station) : (listStation e s).colour = s.colour := rfl
@[simp] theorem listStation_registry (e : Station) : (listStation e s).registry = s.registry := rfl
@[simp] theorem listStation_cost (e : Station) : (listStation e s).cost = s.cost := rfl
@[simp] theorem listStation_engine (e : Station) : (listStation e s).engine = s.engine := rfl
@[simp] theorem listStation_control (e : Station) : (listStation e s).control = s.control := rfl
@[simp] theorem listStation_links (e : Station) : (listStation e s).links = s.links := rfl
@[simp] theorem listStation_store (e : Station) : (listStation e s).store = s.store := rfl

end Sys2Proof.Machine
end

