-- ==== Sys2Proof/Laws/Work.lean ====
section
/-! SUPPORT. The laws of the prints, the editions, the roll, the reference sets and the reservations under the changes that
the operations make of one record, one entry or the transport: what each change must keep for the laws to be kept. -/

namespace Sys2Proof.Machine

set_option Elab.async false

open Sys2Proof

/-! ## One record among records of different handles -/

/-- The record a handle names stands alone in its list. -/
theorem split_print {l : List PrintRecord} {n : Nat} {p : PrintRecord} (hn : (l.map (·.handle)).Nodup)
    (hf : l.find? (fun x => x.handle == n) = some p) :
    ∃ a b, l = a ++ p :: b ∧ p.handle = n ∧ (∀ x ∈ a, x.handle ≠ n) ∧ ∀ x ∈ b, x.handle ≠ n := by
  obtain ⟨hp, a, b, rfl, ha⟩ := List.find?_eq_some_iff_append.mp hf
  have hp : p.handle = n := by simpa using hp
  refine ⟨a, b, rfl, hp, fun x hx => by simpa using ha x hx, fun x hx e => ?_⟩
  rw [List.map_append, List.map_cons] at hn
  have := (List.nodup_cons.mp (List.nodup_append.mp hn).2.1).1
  exact this (List.mem_map.mpr ⟨x, hx, e.trans hp.symm⟩)

/-- A change of the record of one handle. -/
def mapAt (n : Nat) (f : PrintRecord → PrintRecord) (l : List PrintRecord) : List PrintRecord :=
  l.map fun x => if x.handle == n then f x else x

theorem mapAt_none {l : List PrintRecord} {n : Nat} (f : PrintRecord → PrintRecord) (h : ∀ x ∈ l, x.handle ≠ n) :
    mapAt n f l = l := by
  unfold mapAt
  conv => rhs; rw [← List.map_id l]
  exact List.map_congr_left fun x hx => by simp [h x hx]

theorem mapAt_split {a b : List PrintRecord} {p : PrintRecord} {n : Nat} (f : PrintRecord → PrintRecord)
    (hp : p.handle = n) (ha : ∀ x ∈ a, x.handle ≠ n) (hb : ∀ x ∈ b, x.handle ≠ n) :
    mapAt n f (a ++ p :: b) = a ++ f p :: b := by
  have h1 := mapAt_none f ha
  have h2 := mapAt_none f hb
  unfold mapAt at *
  rw [List.map_append, List.map_cons, h1, h2]
  simp [hp]

theorem dropAt_split {a b : List PrintRecord} {p : PrintRecord} {n : Nat} (hp : p.handle = n)
    (ha : ∀ x ∈ a, x.handle ≠ n) (hb : ∀ x ∈ b, x.handle ≠ n) :
    ((a ++ p :: b).filter fun x => x.handle != n) = a ++ b := by
  have h1 : (a.filter fun x => x.handle != n) = a := List.filter_eq_self.mpr fun x hx => by simp [ha x hx]
  have h2 : (b.filter fun x => x.handle != n) = b := List.filter_eq_self.mpr fun x hx => by simp [hb x hx]
  simp [h1, h2, hp]

/-! ## Changes that the laws do not see -/

/-- A change of a record that the laws do not see: its identity and outcome stay, its state too but for a step between
TRAVEL, SCAN and SEPARATE, it does not come to await tail-out before its imaging is over, and no reservation rises. -/
structure Quiet (p q : PrintRecord) : Prop where
  handle : q.handle = p.handle
  kind : q.kind = p.kind
  edition : q.editionId = p.editionId
  refSet : q.refSet = p.refSet
  outcome : q.outcome = p.outcome
  state : q.state = p.state ∨ (p.imaged = true ∧ q.imaged = true ∧ (q.state = .scan → q.outcome = none))
  awaiting : q.awaitingTailOut = true → p.awaitingTailOut = true ∨ q.imaged = true
  reservation : ∀ c : Chan, q.reservation[c] ≤ p.reservation[c]

theorem Quiet.refl (p : PrintRecord) : Quiet p p :=
  ⟨rfl, rfl, rfl, rfl, rfl, .inl rfl, .inl, fun _ => Nat.le_refl _⟩

theorem Quiet.imaged {p q : PrintRecord} (h : Quiet p q) : q.imaged = p.imaged := by
  rcases h.state with e | ⟨e1, e2, -⟩
  · simp [PrintRecord.imaged, e]
  · rw [e1, e2]

theorem not_active_of_imaged {p : PrintRecord} (h : p.imaged = true) : (p.state == .active) = false := by
  unfold PrintRecord.imaged at h
  split at h <;> simp_all

theorem live_of_imaged {p : PrintRecord} (h : p.imaged = true) : p.live = true := by
  unfold PrintRecord.imaged at h
  split at h <;> simp_all [PrintRecord.live]

theorem Quiet.active {p q : PrintRecord} (h : Quiet p q) : (q.state == .active) = (p.state == .active) := by
  rcases h.state with e | ⟨e1, e2, -⟩
  · rw [e]
  · rw [not_active_of_imaged e1, not_active_of_imaged e2]

theorem Quiet.live {p q : PrintRecord} (h : Quiet p q) : q.live = p.live := by
  rcases h.state with e | ⟨e1, e2, -⟩
  · simp [PrintRecord.live, e]
  · rw [live_of_imaged e1, live_of_imaged e2]

theorem Quiet.inFlight {p q : PrintRecord} (h : Quiet p q) : q.inFlight = p.inFlight := by
  simp [PrintRecord.inFlight, h.live, h.outcome]

/-- Filters that a change of the records does not see. -/
theorem filter_map_same {α β : Type} (t : α → Bool) (g : α → α) (v : α → β) (l : List α)
    (ht : ∀ x ∈ l, t (g x) = t x) (hv : ∀ x ∈ l, v (g x) = v x) :
    ((l.map g).filter t).map v = (l.filter t).map v := by
  induction l with
  | nil => rfl
  | cons x l ih =>
    have := ih (fun y hy => ht y (List.mem_cons_of_mem _ hy)) fun y hy => hv y (List.mem_cons_of_mem _ hy)
    have h1 := ht x (List.mem_cons_self ..)
    have h2 := hv x (List.mem_cons_self ..)
    by_cases hx : t x = true
    · simp [h1, hx, h2, this]
    · simp [h1, hx, this]

theorem length_filter_map {α : Type} (t : α → Bool) (g : α → α) (l : List α) (ht : ∀ x ∈ l, t (g x) = t x) :
    ((l.map g).filter t).length = (l.filter t).length := by
  have := congrArg List.length (filter_map_same t g (fun _ => ()) l ht fun _ _ => rfl)
  simpa using this

/-- One record takes a place in the cost log unless it is WAITING. -/
theorem live_one (p : PrintRecord) : ([p].filter PrintRecord.live).length = if p.state = .waiting then 0 else 1 := by
  cases h : p.state <;> simp [PrintRecord.live, h]

/-- One record is ACTIVE or not. -/
theorem actives_one (p : PrintRecord) :
    ([p].filter (·.state == .active)).map (·.handle) = if p.state = .active then [p.handle] else [] := by
  cases h : p.state <;> simp [h]

section Quiet

variable {prints : List PrintRecord} {engine : EngineState} {marker : Option OpenMarker} {hold : Hold}
  {log : List CostRecord} {table : List Edition} {m : MediaTransport}

theorem flying_map {g : PrintRecord → PrintRecord} (hg : ∀ p ∈ prints, Quiet p (g p)) (k : PrintKind) (id : Nat) :
    flying (prints.map g) k id = flying prints k id :=
  length_filter_map _ g prints fun p hp => by rw [(hg p hp).inFlight, (hg p hp).kind, (hg p hp).edition]

theorem PrintsLaw.quiet (h : PrintsLaw prints engine marker hold log) {g : PrintRecord → PrintRecord}
    (hg : ∀ p ∈ prints, Quiet p (g p)) : PrintsLaw (prints.map g) engine marker hold log where
  handles := by
    have : (prints.map g).map (·.handle) = prints.map (·.handle) := by
      rw [List.map_map]
      exact List.map_congr_left fun p hp => (hg p hp).handle
    rw [this]
    exact h.handles
  active := by
    rw [filter_map_same _ g _ prints (fun p hp => (hg p hp).active) fun p hp => (hg p hp).handle]
    exact h.active
  printing := h.printing
  positioning := h.positioning
  undecided := by
    intro q hq hu
    obtain ⟨p, hp, rfl⟩ := List.mem_map.mp hq
    have k := hg p hp
    rcases k.state with e | ⟨-, e2, e3⟩
    · rw [k.outcome]
      exact h.undecided p hp (hu.imp (fun x => by rw [← k.imaged]; exact x) fun x => e ▸ x)
    · rcases hu with x | x
      · rw [e2] at x
        cases x
      · exact e3 x
  awaiting := by
    intro q hq ha
    obtain ⟨p, hp, rfl⟩ := List.mem_map.mp hq
    have k := hg p hp
    rcases k.awaiting ha with e | e
    · rw [k.imaged]
      exact h.awaiting p hp e
    · exact e
  places := by
    rw [length_filter_map _ g prints fun p hp => (hg p hp).live]
    exact h.places

theorem EditionLaw.quiet (h : EditionLaw prints table) {g : PrintRecord → PrintRecord}
    (hg : ∀ p ∈ prints, Quiet p (g p)) : EditionLaw (prints.map g) table where
  ids := h.ids
  known := by
    intro q hq id hi
    obtain ⟨p, hp, rfl⟩ := List.mem_map.mp hq
    rw [(hg p hp).edition] at hi
    rw [(hg p hp).refSet]
    exact h.known p hp id hi
  counts := fun e he => by
    rw [flying_map hg, flying_map hg]
    exact h.counts e he
  limits := h.limits

/-- A change of the records that the laws do not see. -/
theorem WorkOf.quiet (h : WorkOf prints engine marker m log table) {g : PrintRecord → PrintRecord}
    (hg : ∀ p ∈ prints, Quiet p (g p)) : WorkOf (prints.map g) engine marker m log table :=
  ⟨h.rollLaw, h.printsLaw.quiet hg, h.editionLaw.quiet hg⟩

/-- A change of an entry that the law does not see. -/
structure QuietEntry (e d : Edition) : Prop where
  id : d.id = e.id
  inFlight : d.inFlight = e.inFlight
  apInFlight : d.apInFlight = e.apInFlight
  accepted : d.accepted = e.accepted
  apAccepted : d.apAccepted = e.apAccepted
  limit : d.limit = e.limit
  apLimit : d.apLimit = e.apLimit
  refSet : d.refSet = e.refSet
  tie : d.state ≠ .closed → e.state ≠ .closed

theorem QuietEntry.refl (e : Edition) : QuietEntry e e := ⟨rfl, rfl, rfl, rfl, rfl, rfl, rfl, rfl, fun h => h⟩

theorem QuietEntry.trans {a b c : Edition} (h : QuietEntry a b) (g : QuietEntry b c) : QuietEntry a c :=
  ⟨g.id.trans h.id, g.inFlight.trans h.inFlight, g.apInFlight.trans h.apInFlight, g.accepted.trans h.accepted,
   g.apAccepted.trans h.apAccepted, g.limit.trans h.limit, g.apLimit.trans h.apLimit, g.refSet.trans h.refSet,
   h.tie ∘ g.tie⟩

theorem EditionLaw.quietEntries (h : EditionLaw prints table) {g : Edition → Edition}
    (hg : ∀ e ∈ table, QuietEntry e (g e)) : EditionLaw prints (table.map g) := by
  have hid : (table.map g).map (·.id) = table.map (·.id) := by
    rw [List.map_map]
    exact List.map_congr_left fun e he => (hg e he).id
  refine ⟨by rw [hid]; exact h.ids, by rw [hid]; exact h.known, fun d hd => ?_, fun d hd => ?_⟩
  · obtain ⟨e, he, rfl⟩ := List.mem_map.mp hd
    have k := hg e he
    rw [k.inFlight, k.apInFlight, k.id]
    exact h.counts e he
  · obtain ⟨e, he, rfl⟩ := List.mem_map.mp hd
    have k := hg e he
    rw [k.inFlight, k.apInFlight, k.accepted, k.apAccepted, k.limit, k.apLimit]
    exact h.limits e he

/-- A change of the transport that leaves the hold, ends it or gives it to the engine, or makes it with no print
ACTIVE. -/
theorem WorkOf.media (h : WorkOf prints engine marker m log table) {m' : MediaTransport} (hr : RollLaw m → RollLaw m')
    (hh : m'.hold = m.hold ∨ (∀ n, m'.hold ≠ .positioning n) ∨ marker = none) :
    WorkOf prints engine marker m' log table :=
  ⟨hr h.rollLaw,
    { h.printsLaw with
      positioning := fun n e => by
        rcases hh with hh | hh | hh
        · exact h.printsLaw.positioning n (hh ▸ e)
        · exact absurd e (hh n)
        · exact hh },
    h.editionLaw⟩

/-- A shorter cost log. -/
theorem WorkOf.shorterLog (h : WorkOf prints engine marker m log table) {log' : List CostRecord}
    (hl : log'.length ≤ log.length) : WorkOf prints engine marker m log' table :=
  ⟨h.rollLaw, { h.printsLaw with places := (Nat.add_le_add_right hl _).trans h.printsLaw.places }, h.editionLaw⟩

end Quiet

/-! ## One record or none in the place of one -/

/-- The number of records of a list that a test takes, with one record in the middle. -/
theorem length_filter_split {α : Type} (t : α → Bool) (a b c : List α) :
    ((a ++ (c ++ b)).filter t).length = (a.filter t).length + ((c.filter t).length + (b.filter t).length) := by
  simp

/-- How a record counts for an edition and a kind. -/
def flies (p : PrintRecord) (k : PrintKind) (id : Nat) : Nat :=
  if (p.inFlight && p.kind == k && p.editionId == some id) = true then 1 else 0

theorem flying_cons (p : PrintRecord) (l : List PrintRecord) (k : PrintKind) (id : Nat) :
    flying (p :: l) k id = flies p k id + flying l k id := by
  unfold flying flies
  rw [List.filter_cons]
  split
  · simp [Nat.add_comm]
  · simp

theorem flying_one (p : PrintRecord) (k : PrintKind) (id : Nat) : flying [p] k id = flies p k id := by
  rw [flying_cons]
  rfl

theorem flying_append (a b : List PrintRecord) (k : PrintKind) (id : Nat) :
    flying (a ++ b) k id = flying a k id + flying b k id := by
  simp [flying]

section Split

variable {a b c : List PrintRecord} {p : PrintRecord} {engine engine' : EngineState}
  {marker marker' : Option OpenMarker} {hold hold' : Hold} {log log' : List CostRecord} {table : List Edition}

/-- The entries of the edition of a print, changed. -/
def mapEntries (p : PrintRecord) (f : Edition → Edition) (table : List Edition) : List Edition :=
  match p.editionId with
  | some id => table.map fun e => if e.id == id then f e else e
  | none => table

/-- An entry whose counts follow a record that changes, and keep within their limits. -/
structure Follows (p : PrintRecord) (c : List PrintRecord) (e d : Edition) : Prop where
  id : d.id = e.id
  inFlight : d.inFlight + flies p .edition e.id = e.inFlight + flying c .edition e.id
  apInFlight : d.apInFlight + flies p .artistProof e.id = e.apInFlight + flying c .artistProof e.id
  limit : d.accepted + d.inFlight ≤ d.limit
  apLimit : d.apAccepted + d.apInFlight ≤ d.apLimit

/-- A record takes the place of another, or the record leaves, and its edition's counts follow. -/
theorem EditionLaw.change (h : EditionLaw (a ++ p :: b) table) (f : Edition → Edition)
    (hc : ∀ q ∈ c, q.editionId = p.editionId ∧ q.refSet = p.refSet)
    (hf : ∀ e ∈ table, p.editionId = some e.id → flies p .edition e.id ≤ e.inFlight →
      flies p .artistProof e.id ≤ e.apInFlight → e.accepted + e.inFlight ≤ e.limit →
      e.apAccepted + e.apInFlight ≤ e.apLimit → Follows p c e (f e)) :
    EditionLaw (a ++ (c ++ b)) (mapEntries p f table) := by
  have hle : ∀ e ∈ table, flies p .edition e.id ≤ e.inFlight ∧ flies p .artistProof e.id ≤ e.apInFlight := by
    intro e he
    have := h.counts e he
    simp only [flying_append, flying_cons] at this
    omega
  have hfol : ∀ e ∈ table, Follows p c e (if p.editionId = some e.id then f e else e) := by
    intro e he
    have hl := h.limits e he
    split
    · rename_i hid
      exact hf e he hid (hle e he).1 (hle e he).2 hl.1 hl.2
    · rename_i hid
      have hz : ∀ k, flies p k e.id = 0 := fun k => by simp [flies, hid]
      have hy : ∀ k, flying c k e.id = 0 := fun k => by
        simp only [flying, List.length_eq_zero_iff, List.filter_eq_nil_iff]
        intro q hq
        simp [(hc q hq).1, hid]
      exact ⟨rfl, by rw [hz, hy], by rw [hz, hy], hl.1, hl.2⟩
  have ht : mapEntries p f table = table.map fun e => if p.editionId = some e.id then f e else e := by
    unfold mapEntries
    split
    · rename_i id hid
      refine List.map_congr_left fun e _ => ?_
      simp only [beq_iff_eq, hid, Option.some.injEq]
      by_cases hx : e.id = id
      · simp [hx]
      · simp [hx, Ne.symm hx]
    · rename_i hid
      simp [hid]
  rw [ht]
  have hids : (table.map fun e => if p.editionId = some e.id then f e else e).map (·.id) = table.map (·.id) := by
    rw [List.map_map]
    exact List.map_congr_left fun e he => (hfol e he).id
  refine ⟨by rw [hids]; exact h.ids, ?_, fun d hd => ?_, fun d hd => ?_⟩
  · rw [hids]
    intro q hq id hid
    simp only [List.mem_append] at hq
    rcases hq with hq | hq | hq
    · exact h.known q (by simp [hq]) id hid
    · rw [(hc q hq).1] at hid
      rw [(hc q hq).2]
      exact h.known p (by simp) id hid
    · exact h.known q (by simp [hq]) id hid
  · obtain ⟨e, he, rfl⟩ := List.mem_map.mp hd
    have hk := h.counts e he
    have hfe := hfol e he
    have h1 := hfe.inFlight
    have h2 := hfe.apInFlight
    simp only [flying_append, flying_cons] at hk
    simp only [flying_append, hfe.id]
    omega
  · obtain ⟨e, he, rfl⟩ := List.mem_map.mp hd
    exact ⟨(hfol e he).limit, (hfol e he).apLimit⟩

/-- The handles of the ACTIVE records. -/
def actives (l : List PrintRecord) : List Nat := (l.filter (·.state == .active)).map (·.handle)

theorem actives_append (a b : List PrintRecord) : actives (a ++ b) = actives a ++ actives b := by simp [actives]

/-- What becomes of the ACTIVE print and its marker: both stay; or with none ACTIVE the record becomes it; or the record
that was ACTIVE is so no more. -/
inductive ActiveChange (p : PrintRecord) (c : List PrintRecord) (marker marker' : Option OpenMarker) : Prop where
  | stays (ha : actives c = actives [p]) (hm : marker' = marker)
  | begins (hm : marker = none) (hc : actives c = (marker'.map (·.handle)).toList)
  | ends (hp : actives [p] = [p.handle]) (hc : actives c = []) (hm : marker' = none)

/-- A record takes the place of another, or the record leaves. -/
theorem PrintsLaw.change (h : PrintsLaw (a ++ p :: b) engine marker hold log)
    (hh : c.map (·.handle) = [p.handle] ∨ c = [])
    (ha : ActiveChange p c marker marker')
    (hp : engine' = .printing ↔ marker'.isSome = true)
    (ho : ∀ n, hold' = .positioning n → marker' = none)
    (hu : ∀ q ∈ c, (q.imaged = false ∨ q.state = .scan → q.outcome = none) ∧
      (q.awaitingTailOut = true → q.imaged = true))
    (hl : log'.length + (c.filter PrintRecord.live).length + ((a ++ p :: b).filter PrintRecord.live).length ≤
      128 + ([p].filter PrintRecord.live).length) :
    PrintsLaw (a ++ (c ++ b)) engine' marker' hold' log' where
  handles := by
    have := h.handles
    rcases hh with hh | rfl
    · simpa [hh] using this
    · refine List.Nodup.sublist ?_ this
      simp
  active := by
    have e : a ++ p :: b = a ++ ([p] ++ b) := rfl
    have hl : actives (a ++ p :: b) = (marker.map (·.handle)).toList := h.active
    rw [e, actives_append, actives_append] at hl
    change actives (a ++ (c ++ b)) = _
    rw [actives_append, actives_append]
    rcases ha with ⟨ha, hm⟩ | ⟨hm, hc⟩ | ⟨h1, hc, hm⟩
    · rw [ha, hm, hl]
    · subst hm
      simp only [Option.map_none, Option.toList_none, List.append_eq_nil_iff] at hl
      rw [hl.1, hl.2.2, hc]
      simp
    · subst hm
      have hn := congrArg List.length hl
      have : ((marker.map (·.handle)).toList).length ≤ 1 := by cases marker <;> simp
      simp only [List.length_append, h1, List.length_singleton] at hn
      have h2 : actives a = [] := List.length_eq_zero_iff.mp (by omega)
      have h3 : actives b = [] := List.length_eq_zero_iff.mp (by omega)
      simp [h2, h3, hc]
  printing := hp
  positioning := ho
  undecided := by
    intro q hq
    simp only [List.mem_append] at hq
    rcases hq with hq | hq | hq
    · exact h.undecided q (by simp [hq])
    · exact (hu q hq).1
    · exact h.undecided q (by simp [hq])
  awaiting := by
    intro q hq
    simp only [List.mem_append] at hq
    rcases hq with hq | hq | hq
    · exact h.awaiting q (by simp [hq])
    · exact (hu q hq).2
    · exact h.awaiting q (by simp [hq])
  places := by
    have e : a ++ p :: b = a ++ ([p] ++ b) := rfl
    rw [e, length_filter_split] at hl
    rw [length_filter_split]
    omega

end Split

section mapEditionOf

variable (s : State) (p : PrintRecord) (f : Edition → Edition)

@[simp] theorem State.mapEditionOf_queue : (s.mapEditionOf p f).queue = s.queue := by
  unfold State.mapEditionOf; split <;> rfl
@[simp] theorem State.mapEditionOf_media : (s.mapEditionOf p f).media = s.media := by
  unfold State.mapEditionOf; split <;> rfl
@[simp] theorem State.mapEditionOf_engine : (s.mapEditionOf p f).engine = s.engine := by
  unfold State.mapEditionOf; split <;> rfl
@[simp] theorem State.mapEditionOf_cost : (s.mapEditionOf p f).cost = s.cost := by
  unfold State.mapEditionOf; split <;> rfl
@[simp] theorem State.mapEditionOf_ink : (s.mapEditionOf p f).ink = s.ink := by
  unfold State.mapEditionOf; split <;> rfl
@[simp] theorem State.mapEditionOf_colour : (s.mapEditionOf p f).colour = s.colour := by
  unfold State.mapEditionOf; split <;> rfl
@[simp] theorem State.mapEditionOf_store : (s.mapEditionOf p f).store = s.store := by
  unfold State.mapEditionOf; split <;> rfl
@[simp] theorem State.mapEditionOf_table :
    (s.mapEditionOf p f).registry.table = mapEntries p f s.registry.table := by
  cases h : p.editionId <;> simp [State.mapEditionOf, mapEntries, h]

end mapEditionOf

/-! ## How far a print has come -/

/-- How far a print has come: not yet ACTIVE, ACTIVE, or imaged. -/
def PrintRecord.stage (p : PrintRecord) : Nat :=
  match p.state with
  | .waiting | .ready => 0
  | .active => 1
  | .travel | .scan | .separate => 2

/-- The print a handle names has come at least so far. -/
def StageAt (k n : Nat) (s : State) : Prop := ∀ p ∈ s.queue.prints, p.handle = n → k ≤ p.stage

theorem stage_imaged {p : PrintRecord} : p.imaged = true ↔ p.stage = 2 := by
  unfold PrintRecord.imaged PrintRecord.stage
  cases p.state <;> simp

theorem Quiet.stage {p q : PrintRecord} (h : Quiet p q) : q.stage = p.stage := by
  rcases h.state with e | ⟨e1, e2, -⟩
  · simp [PrintRecord.stage, e]
  · rw [stage_imaged.mp e1, stage_imaged.mp e2]

/-! ## The laws of a state when one print changes -/

section State

variable {s t : State} {n : Nat} {p : PrintRecord} {c : List PrintRecord}

/-- The records after a change of the record of a handle: the given ones stand in its place. -/
def Replaced (n : Nat) (p : PrintRecord) (c l l' : List PrintRecord) : Prop :=
  ∀ a b, l = a ++ p :: b → (∀ x ∈ a, x.handle ≠ n) → (∀ x ∈ b, x.handle ≠ n) → l' = a ++ (c ++ b)

theorem replaced_mapAt (f : PrintRecord → PrintRecord) (l : List PrintRecord) (hp : p.handle = n) :
    Replaced n p [f p] l (mapAt n f l) := by
  rintro a b rfl ha hb
  rw [mapAt_split f hp ha hb]
  rfl

theorem replaced_dropAt (l : List PrintRecord) (hp : p.handle = n) :
    Replaced n p [] l (l.filter fun x => x.handle != n) := by
  rintro a b rfl ha hb
  rw [dropAt_split hp ha hb]
  rfl

theorem findPrint_handle (hf : s.findPrint n = some p) : p.handle = n := by
  simpa using List.find?_some hf

theorem findPrint_mem (hf : s.findPrint n = some p) : p ∈ s.queue.prints := List.mem_of_find?_eq_some hf

/-- One print's record changes, with its edition's counts and the engine's part, and the laws are kept. -/
theorem work_change (w : WorkLaw s) (hf : s.findPrint n = some p) (g : Edition → Edition)
    (hq : Replaced n p c s.queue.prints t.queue.prints)
    (ht : t.registry.table = mapEntries p g s.registry.table)
    (hc : ∀ q ∈ c, q.editionId = p.editionId ∧ q.refSet = p.refSet)
    (hg : ∀ e ∈ s.registry.table, p.editionId = some e.id → flies p .edition e.id ≤ e.inFlight →
      flies p .artistProof e.id ≤ e.apInFlight → e.accepted + e.inFlight ≤ e.limit →
      e.apAccepted + e.apInFlight ≤ e.apLimit → Follows p c e (g e))
    (hh : c.map (·.handle) = [p.handle] ∨ c = [])
    (ha : ActiveChange p c s.store.openPrint t.store.openPrint)
    (hp : t.engine.state = .printing ↔ t.store.openPrint.isSome = true)
    (ho : ∀ m, t.media.hold = .positioning m → t.store.openPrint = none)
    (hu : ∀ q ∈ c, (q.imaged = false ∨ q.state = .scan → q.outcome = none) ∧
      (q.awaitingTailOut = true → q.imaged = true))
    (hl : t.cost.log.length + (c.filter PrintRecord.live).length + s.liveCount ≤
      128 + ([p].filter PrintRecord.live).length)
    (hm : RollLaw t.media) : WorkLaw t := by
  obtain ⟨a, b, he, -, h1, h2⟩ := split_print w.printsLaw.handles hf
  have hq := hq a b he h1 h2
  have hps := w.printsLaw
  have hes := w.editionLaw
  unfold State.liveCount at hl
  rw [he] at hps hes hl
  refine ⟨hm, ?_, ?_⟩
  · rw [hq]
    exact hps.change hh ha hp ho hu hl
  · rw [hq, ht]
    exact hes.change g hc hg

/-- One print's record changes, and comes no less far. -/
theorem forward_change (w : WorkLaw s) (hf : s.findPrint n = some p)
    (hq : Replaced n p c s.queue.prints t.queue.prints)
    (hc : ∀ q ∈ c, q.handle = p.handle ∧ p.stage ≤ q.stage) (m k : Nat) (h : StageAt k m s) : StageAt k m t := by
  obtain ⟨a, b, he, -, h1, h2⟩ := split_print w.printsLaw.handles hf
  intro q hmem hm
  rw [hq a b he h1 h2] at hmem
  simp only [List.mem_append] at hmem
  rcases hmem with hx | hx | hx
  · exact h q (by rw [he]; simp [hx]) hm
  · exact (h p (findPrint_mem hf) ((hc q hx).1.symm.trans hm)).trans (hc q hx).2
  · exact h q (by rw [he]; simp [hx]) hm

end State

/-! ## Reservations and supplies -/

/-- What a record counts for in a channel's committed total. -/
def share (d : Chan) (p : PrintRecord) : Nat := if (p.state == .ready || p.state == .active) = true then p.reservation[d] else 0

theorem committed_shares (s : State) (d : Chan) : s.committed d = (s.queue.prints.map (share d)).sum := by
  unfold State.committed
  induction s.queue.prints with
  | nil => rfl
  | cons p l ih =>
    rw [List.filter_cons, List.map_cons, List.sum_cons, ← ih]
    unfold share
    split <;> simp

/-- The law of the reservations, with room for the queue's prints, but for the channels of a test: while a fall of usable
supply is being repaired, its channel stands aside. -/
structure SupplyBut (x : Chan → Prop) (s : State) : Prop where
  room : s.queue.prints.length ≤ 8
  order : s.queue.readyOrder.Nodup
  ready : ∀ h, h ∈ s.queue.readyOrder ↔ ∃ p ∈ s.queue.prints, p.handle = h ∧ p.state = .ready
  within : ∀ c, x c ∨ s.committed c ≤ s.usable c

theorem supplyLaw_iff {s : State} (hl : s.queue.prints.length ≤ 8) : SupplyLaw s ↔ SupplyBut (fun _ => False) s :=
  ⟨fun l => ⟨hl, l.order, l.ready, fun c => .inr (l.within c)⟩,
   fun l => ⟨l.order, l.ready, fun c => (l.within c).resolve_left id⟩⟩

theorem SupplyBut.mono {x y : Chan → Prop} {s : State} (l : SupplyBut x s) (h : ∀ c, x c → y c) : SupplyBut y s :=
  ⟨l.room, l.order, l.ready, fun c => (l.within c).imp_left (h c)⟩

/-- The same records and the same supplies. -/
theorem SupplyBut.same {x : Chan → Prop} {s t : State} (l : SupplyBut x s) (hq : t.queue.prints = s.queue.prints)
    (ho : t.queue.readyOrder = s.queue.readyOrder) (hu : ∀ c, x c ∨ s.usable c ≤ t.usable c) : SupplyBut x t := by
  refine ⟨hq ▸ l.room, ho ▸ l.order, by rw [hq, ho]; exact l.ready, fun c => ?_⟩
  rw [committed_shares, hq, ← committed_shares]
  rcases hu c with h | h
  · exact .inl h
  · exact (l.within c).imp_right (·.trans h)

theorem sum_map_le {α : Type} (f g : α → Nat) (l : List α) (h : ∀ a ∈ l, f a ≤ g a) : (l.map f).sum ≤ (l.map g).sum := by
  induction l with
  | nil => exact Nat.le_refl _
  | cons a l ih =>
    simp only [List.map_cons, List.sum_cons]
    exact Nat.add_le_add (h a (List.mem_cons_self ..)) (ih fun b hb => h b (List.mem_cons_of_mem _ hb))

theorem Quiet.share {p q : PrintRecord} (h : Quiet p q) (d : Chan) : share d q ≤ share d p := by
  unfold Machine.share
  rcases h.state with e | ⟨e1, e2, -⟩
  · rw [e]
    split
    · exact h.reservation d
    · exact Nat.le_refl _
  · have h2 : (q.state == .ready || q.state == .active) = false := by
      unfold PrintRecord.imaged at e2
      split at e2 <;> simp_all
    simp [h2]

theorem Quiet.ready {p q : PrintRecord} (h : Quiet p q) : q.state = .ready ↔ p.state = .ready := by
  rcases h.state with e | ⟨e1, e2, -⟩
  · rw [e]
  · have h1 : ∀ {x : PrintRecord}, x.imaged = true → x.state ≠ .ready := fun {x} hx e => by
      simp [PrintRecord.imaged, e] at hx
    simp [h1 e1, h1 e2]

/-- A change of the records that the laws do not see. -/
theorem SupplyBut.quiet {x : Chan → Prop} {s t : State} (l : SupplyBut x s) {g : PrintRecord → PrintRecord}
    (hq : t.queue.prints = s.queue.prints.map g) (hg : ∀ p ∈ s.queue.prints, Quiet p (g p))
    (ho : t.queue.readyOrder = s.queue.readyOrder) (hu : ∀ c, t.usable c = s.usable c) : SupplyBut x t := by
  refine ⟨by rw [hq]; simpa using l.room, ho ▸ l.order, fun h => ?_, fun c => ?_⟩
  · rw [ho, l.ready, hq]
    constructor
    · rintro ⟨p, hp, h1, h2⟩
      exact ⟨g p, List.mem_map.mpr ⟨p, hp, rfl⟩, (hg p hp).handle.trans h1, (hg p hp).ready.mpr h2⟩
    · rintro ⟨q, hm, h1, h2⟩
      obtain ⟨p, hp, rfl⟩ := List.mem_map.mp hm
      exact ⟨p, hp, (hg p hp).handle.symm.trans h1, (hg p hp).ready.mp h2⟩
  · rw [hu, committed_shares, hq, List.map_map]
    refine (l.within c).imp_right fun h => Nat.le_trans ?_ h
    rw [committed_shares]
    exact sum_map_le _ _ _ fun p hp => (hg p hp).share c

/-- What becomes of the ready order when one print's record changes: it stays; or the print leaves it; or the print joins
it at the end. -/
inductive ReadyChange (n : Nat) (p : PrintRecord) (c : List PrintRecord) (o o' : List Nat) : Prop where
  | stays (ho : o' = o) (hp : p.state ≠ .ready) (hc : ∀ q ∈ c, q.state ≠ .ready)
  | leaves (ho : o' = o.filter fun r => r != n) (hc : ∀ q ∈ c, q.state ≠ .ready)
  | joins (q : PrintRecord) (ho : o' = o ++ [n]) (hp : p.state ≠ .ready) (hc : c = [q]) (hn : q.handle = n)
      (hq : q.state = .ready)

/-- One print's record changes, and the channels that do not stand aside keep their law. -/
theorem supply_change {s t : State} {n : Nat} {p : PrintRecord} {c : List PrintRecord} (w : WorkLaw s)
    (hf : s.findPrint n = some p) (hq : Replaced n p c s.queue.prints t.queue.prints) (hc : c.length ≤ 1)
    (hr : ReadyChange n p c s.queue.readyOrder t.queue.readyOrder) (hu : ∀ d, t.usable d = s.usable d)
    (hs : ∀ d, (c.map (share d)).sum ≤ share d p ∨ s.committed d + (c.map (share d)).sum ≤ s.usable d + share d p)
    (x : Chan → Prop) (l : SupplyBut x s) : SupplyBut x t := by
  obtain ⟨a, b, he, hn, h1, h2⟩ := split_print w.printsLaw.handles hf
  have hq := hq a b he h1 h2
  have ha : ∀ h, (∃ q ∈ t.queue.prints, q.handle = h ∧ q.state = .ready) ↔
      (∃ q ∈ a, q.handle = h ∧ q.state = .ready) ∨ (∃ q ∈ c, q.handle = h ∧ q.state = .ready) ∨
        ∃ q ∈ b, q.handle = h ∧ q.state = .ready := fun h => by
    rw [hq]
    simp only [List.mem_append, or_and_right, exists_or]
  have hb : ∀ h, (∃ q ∈ s.queue.prints, q.handle = h ∧ q.state = .ready) ↔
      (∃ q ∈ a, q.handle = h ∧ q.state = .ready) ∨ (p.handle = h ∧ p.state = .ready) ∨
        ∃ q ∈ b, q.handle = h ∧ q.state = .ready := fun h => by
    rw [he]
    simp only [List.mem_append, List.mem_cons, or_and_right, exists_or, exists_eq_left]
  have hout : ∀ {q}, q ∈ a ∨ q ∈ b → q.handle ≠ n := fun hq => hq.elim (h1 _) (h2 _)
  refine ⟨?_, ?_, fun h => ?_, fun d => ?_⟩
  · have := l.room
    rw [he] at this
    rw [hq]
    simp only [List.length_append, List.length_cons] at this ⊢
    omega
  · rcases hr with ⟨ho, -, -⟩ | ⟨ho, -⟩ | ⟨q, ho, hp, -, -, -⟩
    · rw [ho]; exact l.order
    · rw [ho]; exact l.order.filter _
    · rw [ho, List.nodup_append]
      refine ⟨l.order, by simp, fun i hi j hj e => hp ?_⟩
      rw [List.mem_singleton.mp hj] at e
      subst e
      obtain ⟨q, hm, h3, h4⟩ := (l.ready i).mp hi
      rw [he] at hm
      rcases List.mem_append.mp hm with hm | hm
      · exact absurd h3 (h1 q hm)
      · rcases List.mem_cons.mp hm with rfl | hm
        · exact h4
        · exact absurd h3 (h2 q hm)
  · have hl := l.ready h
    rw [hb h] at hl
    rw [ha h]
    rcases hr with ⟨ho, hp, hc⟩ | ⟨ho, hc⟩ | ⟨q, ho, hp, hc, hqn, hqr⟩
    · rw [ho, hl]
      have : ¬∃ q ∈ c, q.handle = h ∧ q.state = .ready := fun ⟨q, hm, _, k⟩ => hc q hm k
      simp [hp, this]
    · have hz : ¬∃ q ∈ c, q.handle = h ∧ q.state = .ready := fun ⟨q, hm, _, k⟩ => hc q hm k
      rw [ho, List.mem_filter, hl]
      simp only [bne_iff_ne, ne_eq, hz, false_or]
      constructor
      · rintro ⟨(k | ⟨k, -⟩ | k), k'⟩
        · exact .inl k
        · exact absurd (k.symm.trans hn) k'
        · exact .inr k
      · rintro (⟨q, k⟩ | ⟨q, k⟩)
        · exact ⟨.inl ⟨q, k⟩, fun e => h1 q k.1 (k.2.1.trans e)⟩
        · exact ⟨.inr (.inr ⟨q, k⟩), fun e => h2 q k.1 (k.2.1.trans e)⟩
    · rw [ho, List.mem_append, hl, List.mem_singleton, hc]
      simp only [hp, and_false, false_or, List.mem_singleton, exists_eq_left, hqr, and_true, hqn]
      constructor
      · rintro ((k | k) | k)
        · exact .inl k
        · exact .inr (.inr k)
        · exact .inr (.inl k.symm)
      · rintro (k | k | k)
        · exact .inl (.inl k)
        · exact .inr k.symm
        · exact .inl (.inr k)
  · have h3 := l.within d
    have h4 := hs d
    simp only [committed_shares] at h3 h4 ⊢
    rw [he] at h3 h4
    rw [hq, hu]
    simp only [List.map_append, List.map_cons, List.sum_append, List.sum_cons] at h3 h4 ⊢
    rcases h3 with h3 | h3
    · exact .inl h3
    · right
      omega

/-! ## Editions and the sets they are tied to -/

/-- The law of the reference sets, but for the sets of a test: while a verdict is issued, the set of the accepted print is
not FIXED yet. -/
structure TiesBut (x : Nat → Prop) (s : State) : Prop where
  index : ∀ e ∈ s.registry.table, e.refSet < 32
  own : ∀ p ∈ s.queue.prints, ∀ e ∈ s.registry.table, p.editionId = some e.id → p.refSet = some e.refSet
  tied : ∀ e ∈ s.registry.table, e.holdsSet e.refSet = true → x e.refSet ∨ (s.refSet e.refSet).mode ≠ .opened

theorem holdsSet_own {e : Edition} :
    e.holdsSet e.refSet = true ↔ e.state ≠ .closed ∧ 0 < e.accepted + e.apAccepted := by
  simp [Edition.holdsSet, Edition.tied]

theorem tiesLaw_iff {s : State} : TiesLaw s ↔ TiesBut (fun _ => False) s :=
  ⟨fun l => ⟨l.index, l.own, fun e he h => .inr (l.tied e he (holdsSet_own.mp h).1 (holdsSet_own.mp h).2)⟩,
   fun l => ⟨l.index, l.own, fun e he h1 h2 => (l.tied e he (holdsSet_own.mpr ⟨h1, h2⟩)).resolve_left id⟩⟩

/-- An entry that ties itself to no set it was not tied to. -/
structure TieKept (e d : Edition) : Prop where
  id : d.id = e.id
  refSet : d.refSet = e.refSet
  holds : d.holdsSet d.refSet = true → e.holdsSet e.refSet = true

theorem TieKept.refl (e : Edition) : TieKept e e := ⟨rfl, rfl, fun h => h⟩

theorem TieKept.trans {a b c : Edition} (h : TieKept a b) (g : TieKept b c) : TieKept a c :=
  ⟨g.id.trans h.id, g.refSet.trans h.refSet, h.holds ∘ g.holds⟩

/-- An entry whose state and numbers of accepted prints stay. -/
theorem TieKept.same {e d : Edition} (hi : d.id = e.id) (hr : d.refSet = e.refSet) (hs : d.state = e.state)
    (ha : d.accepted = e.accepted) (hp : d.apAccepted = e.apAccepted) : TieKept e d :=
  ⟨hi, hr, fun h => by rw [holdsSet_own] at h ⊢; rwa [← hs, ← ha, ← hp]⟩

theorem QuietEntry.tieKept {e d : Edition} (h : QuietEntry e d) : TieKept e d :=
  ⟨h.id, h.refSet, fun k => by
    rw [holdsSet_own] at k ⊢
    rw [← h.accepted, ← h.apAccepted]
    exact ⟨h.tie k.1, k.2⟩⟩

theorem mapInFlight_tieKept (e : Edition) (k : PrintKind) (f : Nat → Nat) : TieKept e (e.mapInFlight k f) := by
  cases k <;> exact .same rfl rfl rfl rfl rfl

/-- A change that brings no new tie and opens no set keeps the ties, whichever sets stand aside. -/
theorem TiesBut.pass {s t : State} {x : Nat → Prop} (l : TiesBut x s)
    (hp : ∀ q ∈ t.queue.prints, ∃ p ∈ s.queue.prints, p.editionId = q.editionId ∧ p.refSet = q.refSet)
    (he : ∀ d ∈ t.registry.table, ∃ e ∈ s.registry.table, TieKept e d)
    (hs : ∀ i, (s.refSet i).mode ≠ .opened → (t.refSet i).mode ≠ .opened) : TiesBut x t where
  index := fun d hd => by
    obtain ⟨e, he, k⟩ := he d hd
    rw [k.refSet]
    exact l.index e he
  own := fun q hq d hd hi => by
    obtain ⟨p, hp, h1, h2⟩ := hp q hq
    obtain ⟨e, he, k⟩ := he d hd
    rw [← h2, k.refSet]
    exact l.own p hp e he (by rw [h1, hi, k.id])
  tied := fun d hd h => by
    obtain ⟨e, he, k⟩ := he d hd
    rw [k.refSet]
    exact (l.tied e he (k.holds h)).imp_right (hs _)

/-- The same, where the sets stay. -/
theorem TiesBut.ofSets {s t : State} (hs : t.colour.sets = s.colour.sets) :
    ∀ i, (s.refSet i).mode ≠ .opened → (t.refSet i).mode ≠ .opened := fun i h => by
  unfold State.refSet at *
  rwa [hs]

theorem mem_mapEntries {p : PrintRecord} {g : Edition → Edition} {table : List Edition} {d : Edition}
    (hd : d ∈ mapEntries p g table) : ∃ e ∈ table, d = e ∨ (p.editionId = some e.id ∧ d = g e) := by
  unfold mapEntries at hd
  split at hd
  · rename_i id hid
    obtain ⟨e, he, rfl⟩ := List.mem_map.mp hd
    refine ⟨e, he, ?_⟩
    split
    · rename_i h
      exact .inr ⟨by rw [hid, eq_of_beq h], rfl⟩
    · exact .inl rfl
  · exact ⟨d, hd, .inl rfl⟩

/-- One print's record changes, with its edition's counts, and the ties stay. -/
theorem ties_change {s t : State} {n : Nat} {p : PrintRecord} {c : List PrintRecord} (w : WorkLaw s)
    (hf : s.findPrint n = some p) (g : Edition → Edition)
    (hq : Replaced n p c s.queue.prints t.queue.prints)
    (ht : t.registry.table = mapEntries p g s.registry.table)
    (hc : ∀ q ∈ c, q.editionId = p.editionId ∧ q.refSet = p.refSet) (hg : ∀ e, TieKept e (g e))
    (hs : t.colour.sets = s.colour.sets) (x : Nat → Prop) (l : TiesBut x s) : TiesBut x t := by
  obtain ⟨a, b, he, -, h1, h2⟩ := split_print w.printsLaw.handles hf
  refine l.pass (fun q hm => ?_) (fun d hd => ?_) (TiesBut.ofSets hs)
  · rw [hq a b he h1 h2] at hm
    simp only [List.mem_append] at hm
    rcases hm with hx | hx | hx
    · exact ⟨q, by rw [he]; simp [hx], rfl, rfl⟩
    · exact ⟨p, findPrint_mem hf, (hc q hx).1.symm, (hc q hx).2.symm⟩
    · exact ⟨q, by rw [he]; simp [hx], rfl, rfl⟩
  · rw [ht] at hd
    obtain ⟨e, he, rfl | ⟨-, rfl⟩⟩ := mem_mapEntries hd
    · exact ⟨_, he, .refl _⟩
    · exact ⟨e, he, hg e⟩

end Sys2Proof.Machine
end

