-- ==== Sys2Proof/Laws/Kept.lean ====
section
/-! SUPPORT. What a shared operation keeps, said once: `Kept s t` holds of the state before and the state after. It is
reflexive and transitive, so that the lemma of an operation is the lemmas of its parts, one after another. This file
has the relation and the lemmas of a change of one record. -/

namespace Sys2Proof.Machine

set_option Elab.async false

open Sys2Proof

/-- Each of the five laws is kept. -/
structure LawsKept (s t : State) : Prop where
  tank : TankLaw s → TankLaw t
  residues : ResidueLaw s → ResidueLaw t
  stations : StationLaw s → StationLaw t
  capacities : Capacities s → Capacities t
  silence : SilenceLaw s → SilenceLaw t

theorem LawsKept.refl (s : State) : LawsKept s s := ⟨id, id, id, id, id⟩

theorem LawsKept.trans {r s t : State} (h : LawsKept r s) (g : LawsKept s t) : LawsKept r t :=
  ⟨g.tank ∘ h.tank, g.residues ∘ h.residues, g.stations ∘ h.stations, g.capacities ∘ h.capacities,
   g.silence ∘ h.silence⟩

/-- What every change of one record keeps: the waiting commands, the stored settings, the masks, the colour codes, the
contents of the reference sets, the closed ids and the cost records there are; and the five laws. -/
structure Held (s t : State) : Prop where
  pending : t.pending = s.pending
  stored : t.stored = s.stored
  masks : ∀ k : NoticeKind, (t.notice k).mask = (s.notice k).mask
  colours : ∀ c : Chan, (t.channel c).colourCode = (s.channel c).colourCode
  sets : ∀ i : Fin 32, SetKept s.colour.sets[i] t.colour.sets[i]
  closed : s.registry.closedIds <+: t.registry.closedIds
  log : s.cost.log <+: t.cost.log
  laws : LawsKept s t

theorem SetKept.refl (a : RefSet) : SetKept a a := ⟨rfl, rfl, rfl, fun _ => rfl⟩

theorem SetKept.trans {a b c : RefSet} (h : SetKept a b) (g : SetKept b c) : SetKept a c :=
  ⟨g.patches.trans h.patches, g.warn.trans h.warn, g.fail.trans h.fail, fun ha => by
    have hb := h.sealed ha
    rw [g.sealed (hb ▸ ha), hb]⟩

theorem Held.refl (s : State) : Held s s :=
  ⟨rfl, rfl, fun _ => rfl, fun _ => rfl, fun _ => .refl _, List.prefix_refl _, List.prefix_refl _, .refl s⟩

theorem Held.trans {r s t : State} (h : Held r s) (g : Held s t) : Held r t :=
  ⟨g.pending.trans h.pending, g.stored.trans h.stored, fun k => (g.masks k).trans (h.masks k),
   fun c => (g.colours c).trans (h.colours c), fun i => (h.sets i).trans (g.sets i), h.closed.trans g.closed,
   h.log.trans g.log, h.laws.trans g.laws⟩

/-! ## A change of one record -/

variable {r s : State}

/-- A change of the print queue that adds no record. -/
theorem Held.ofQueue (h : Held r s) (q : PrintQueue) (hq : q.prints.length ≤ s.queue.prints.length) :
    Held r { s with queue := q } :=
  h.trans ⟨rfl, rfl, fun _ => rfl, fun _ => rfl, fun _ => .refl _, List.prefix_refl _, List.prefix_refl _,
    ⟨id, id, id, fun l => { l with prints := hq.trans l.prints }, id⟩⟩

/-- A change of the clock that keeps the day. -/
theorem Held.ofClock (h : Held r s) (k : Clock) (hk : k.day = s.clock.day) : Held r { s with clock := k } :=
  h.trans ⟨rfl, by simp [State.stored, hk], fun _ => rfl, fun _ => rfl, fun _ => .refl _, List.prefix_refl _,
    List.prefix_refl _, ⟨id, id, id, fun l => { l with }, id⟩⟩

/-- Any change of the inputs. -/
theorem Held.ofInputs (h : Held r s) (i : SensorLevels) : Held r { s with inputs := i } :=
  h.trans ⟨rfl, rfl, fun _ => rfl, fun _ => rfl, fun _ => .refl _, List.prefix_refl _, List.prefix_refl _,
    ⟨id, id, id, fun l => { l with }, id⟩⟩

/-- Any change of the links' receivers. -/
theorem Held.ofLinks (h : Held r s) (k : Links) : Held r { s with links := k } :=
  h.trans ⟨rfl, rfl, fun _ => rfl, fun _ => rfl, fun _ => .refl _, List.prefix_refl _, List.prefix_refl _,
    ⟨id, id, id, fun l => { l with }, id⟩⟩

/-- Any change of the cutter. -/
theorem Held.ofCutter (h : Held r s) (k : Cutter) : Held r { s with cutter := k } :=
  h.trans ⟨rfl, rfl, fun _ => rfl, fun _ => rfl, fun _ => .refl _, List.prefix_refl _, List.prefix_refl _,
    ⟨id, id, id, fun l => { l with }, id⟩⟩

/-- Any progress of start-up. -/
theorem Held.ofStartUp (h : Held r s) (u : StartUp) : Held r { s with startUp := u } :=
  h.trans ⟨rfl, rfl, fun _ => rfl, fun _ => rfl, fun _ => .refl _, List.prefix_refl _, List.prefix_refl _,
    ⟨id, id, id, fun l => { l with }, id⟩⟩

/-- A change of the transport that keeps the station list in order and no longer than it was allowed to be. -/
theorem Held.ofMedia (h : Held r s) (m : MediaTransport)
    (hm : StationLaw s → StationLaw { s with media := m })
    (hn : s.media.stations.length ≤ 16 → m.stations.length ≤ 16) : Held r { s with media := m } :=
  h.trans ⟨rfl, rfl, fun _ => rfl, fun _ => rfl, fun _ => .refl _, List.prefix_refl _, List.prefix_refl _,
    ⟨id, id, fun l => hm l, fun l => { l with stations := hn l.stations }, id⟩⟩

/-- A change of the transport that leaves the station list. -/
theorem Held.ofMedia' (h : Held r s) (m : MediaTransport) (hm : m.stations = s.media.stations) :
    Held r { s with media := m } :=
  h.ofMedia m (fun l => by simpa only [StationLaw, hm] using l) fun l => by simpa only [hm] using l

/-- A change of the colour unit that keeps its sets. -/
theorem Held.ofColour (h : Held r s) (u : ColourUnit) (hu : ∀ i : Fin 32, SetKept s.colour.sets[i] u.sets[i]) :
    Held r { s with colour := u } :=
  h.trans ⟨rfl, rfl, fun _ => rfl, fun _ => rfl, hu, List.prefix_refl _, List.prefix_refl _,
    ⟨id, id, id, fun l => { l with }, id⟩⟩

/-- A change of the colour unit that leaves its sets. -/
theorem Held.ofColour' (h : Held r s) (u : ColourUnit) (hu : u.sets = s.colour.sets) :
    Held r { s with colour := u } :=
  h.ofColour u fun i => by rw [hu]; exact .refl _

/-- A change of the registry that adds no entry and keeps the closed ids. -/
theorem Held.ofRegistry (h : Held r s) (g : Registry) (hg : g.table.length = s.registry.table.length)
    (hc : g.closedIds = s.registry.closedIds) : Held r { s with registry := g } :=
  h.trans ⟨rfl, rfl, fun _ => rfl, fun _ => rfl, fun _ => .refl _, by simp [hc], List.prefix_refl _,
    ⟨id, id, id, fun l => { l with editions := hg ▸ l.editions, closedIds := hc ▸ l.closedIds }, id⟩⟩

/-- A change of the cost unit that keeps its tables and its records. -/
theorem Held.ofCost (h : Held r s) (k : CostUnit) (ht : k.tariff = s.cost.tariff) (hm : k.media = s.cost.media)
    (hl : s.cost.log <+: k.log) : Held r { s with cost := k } :=
  h.trans ⟨rfl, by simp [State.stored, ht, hm], fun _ => rfl, fun _ => rfl, fun _ => .refl _, List.prefix_refl _, hl,
    ⟨id, id, id, fun l => { l with }, id⟩⟩

/-- A change of the engine link that keeps its routing and the silence law. -/
theorem Held.ofEngine (h : Held r s) (e : EngineLink) (hr : e.haltRouting = s.engine.haltRouting)
    (hs : SilenceLaw s → SilenceLaw { s with engine := e }) : Held r { s with engine := e } :=
  h.trans ⟨rfl, by simp [State.stored, hr], fun _ => rfl, fun _ => rfl, fun _ => .refl _, List.prefix_refl _,
    List.prefix_refl _, ⟨id, id, id, fun l => { l with }, fun l => hs l⟩⟩

/-- A change of the control link's lines, notices and lists that keeps its settings, its masks and its bounds. -/
theorem Held.ofControl (h : Held r s) (k : ControlLink)
    (hs : State.stored { s with control := k } = s.stored)
    (hm : ∀ n : NoticeKind, (k.notices[n.index]).mask = (s.notice n).mask)
    (hl : s.control.sendList.length ≤ 32 → k.sendList.length ≤ 32)
    (hr : s.control.receiveList.length ≤ 4 → k.receiveList.length ≤ 4) : Held r { s with control := k } :=
  h.trans ⟨rfl, hs, hm, fun _ => rfl, fun _ => .refl _, List.prefix_refl _, List.prefix_refl _,
    ⟨id, id, id, fun l => { l with sendList := hl l.sendList, receiveList := hr l.receiveList }, id⟩⟩

/-- A change of the ink supply that keeps the colour codes, the laws of the channels and the memory table's bound. -/
theorem Held.ofInk (h : Held r s) (k : InkSupply)
    (hc : ∀ c : Chan, (k.channels[c]).colourCode = (s.channel c).colourCode)
    (hp : ∀ c : Chan, ChannelLaw (s.channel c) → ChannelLaw k.channels[c])
    (hm : s.ink.memory.length ≤ 32 → k.memory.length ≤ 32) : Held r { s with ink := k } :=
  h.trans ⟨rfl, rfl, fun _ => rfl, hc, fun _ => .refl _, List.prefix_refl _, List.prefix_refl _,
    ⟨fun l => fun c => ⟨hp c (l c).1, (l c).2⟩, id, id, fun l => { l with memory := hm l.memory }, id⟩⟩

/-- A change of the meter that keeps its tables and the bound of the residues. -/
theorem Held.ofMeter (h : Held r s) (m : InkMeter) (hs : State.stored { s with meter := m } = s.stored)
    (hr : ∀ c : Chan, s.meter.residues[c] < Config.unitsPerNl → m.residues[c] < Config.unitsPerNl) :
    Held r { s with meter := m } :=
  h.trans ⟨rfl, hs, fun _ => rfl, fun _ => rfl, fun _ => .refl _, List.prefix_refl _, List.prefix_refl _,
    ⟨id, fun l => fun c => ⟨hr c (l c).1, (l c).2⟩, id, fun l => { l with }, id⟩⟩

/-- A change of the store that keeps the ink checkpoint. -/
theorem Held.ofStore (h : Held r s) (k : Store) (hk : k.ink = s.store.ink) : Held r { s with store := k } :=
  h.trans ⟨rfl, rfl, fun _ => rfl, fun _ => rfl, fun _ => .refl _, List.prefix_refl _, List.prefix_refl _,
    ⟨fun l => fun c => ⟨(l c).1, by simpa only [hk] using (l c).2⟩, fun l => fun c => ⟨(l c).1, by simpa only [hk] using (l c).2⟩, id, fun l => { l with }, id⟩⟩

/-! ## What every operation keeps -/

/-- What an operation on a channel's ink keeps: what a change of one record keeps, the laws of the prints, the roll and the
editions, the ties of the reference sets, whichever sets stand aside, and no print goes back a stage. -/
structure Core (s t : State) : Prop extends Held s t where
  work : WorkLaw s → WorkLaw t
  ties : WorkLaw s → ∀ x, TiesBut x s → TiesBut x t
  forward : WorkLaw s → ∀ n k, StageAt k n s → StageAt k n t

/-- What a request keeps: the same laws, and that of the reservations, whichever channels stand aside. -/
structure Sound (s t : State) : Prop extends Held s t where
  work : WorkLaw s → WorkLaw t
  ties : WorkLaw s → ∀ x, TiesBut x s → TiesBut x t
  supply : WorkLaw s → ∀ x, SupplyBut x s → SupplyBut x t

/-- What every shared operation keeps: what a request keeps, and no print goes back a stage. -/
structure Kept (s t : State) : Prop extends Sound s t where
  forward : WorkLaw s → ∀ n k, StageAt k n s → StageAt k n t

theorem Sound.trans {r s t : State} (h : Sound r s) (g : Sound s t) : Sound r t :=
  ⟨h.toHeld.trans g.toHeld, g.work ∘ h.work, fun w x l => g.ties (h.work w) x (h.ties w x l),
   fun w x l => g.supply (h.work w) x (h.supply w x l)⟩

theorem Core.refl (s : State) : Core s s := ⟨.refl s, id, fun _ _ => id, fun _ _ _ => id⟩

theorem Core.trans {r s t : State} (h : Core r s) (g : Core s t) : Core r t :=
  ⟨h.toHeld.trans g.toHeld, g.work ∘ h.work, fun w x l => g.ties (h.work w) x (h.ties w x l),
   fun w n k x => g.forward (h.work w) n k (h.forward w n k x)⟩

theorem Kept.core {s t : State} (h : Kept s t) : Core s t := ⟨h.toHeld, h.work, h.ties, h.forward⟩

/-- An operation keeps everything where it keeps the law of the reservations too. -/
theorem Core.kept {s t : State} (h : Core s t) (hv : WorkLaw s → ∀ x, SupplyBut x s → SupplyBut x t) : Kept s t :=
  ⟨⟨h.toHeld, h.work, h.ties, hv⟩, h.forward⟩

theorem Kept.refl (s : State) : Kept s s := ⟨⟨.refl s, id, fun _ _ => id, fun _ _ => id⟩, fun _ _ _ => id⟩

theorem Kept.trans {r s t : State} (h : Kept r s) (g : Kept s t) : Kept r t :=
  ⟨h.toSound.trans g.toSound, fun w n k x => g.forward (h.work w) n k (h.forward w n k x)⟩

/-- A composite operation, from what its parts hold and what it does to the laws. -/
theorem Kept.ofWork {t : State} (h : Kept r s) (g : Held r t) (hw : WorkLaw s → WorkLaw t)
    (hf : WorkLaw s → ∀ n k, StageAt k n s → StageAt k n t)
    (ht : WorkLaw s → ∀ x, TiesBut x s → TiesBut x t) (hv : WorkLaw s → ∀ x, SupplyBut x s → SupplyBut x t) : Kept r t :=
  ⟨⟨g, hw ∘ h.work, fun w x l => ht (h.work w) x (h.ties w x l), fun w x l => hv (h.work w) x (h.supply w x l)⟩,
   fun w n k x => hf (h.work w) n k (h.forward w n k x)⟩

/-- The same, where the laws held in the first state. -/
theorem Kept.ofWorkFrom {t : State} (h : Kept r s) (g : Held r t) (hw : WorkLaw r → WorkLaw s → WorkLaw t)
    (hf : WorkLaw r → WorkLaw s → ∀ n k, StageAt k n s → StageAt k n t)
    (ht : WorkLaw s → ∀ x, TiesBut x s → TiesBut x t) (hv : WorkLaw s → ∀ x, SupplyBut x s → SupplyBut x t) : Kept r t :=
  ⟨⟨g, fun w => hw w (h.work w), fun w x l => ht (h.work w) x (h.ties w x l),
    fun w x l => hv (h.work w) x (h.supply w x l)⟩,
   fun w n k x => hf w (h.work w) n k (h.forward w n k x)⟩

/-- Ties where neither the records, nor the entries, nor the sets change. -/
theorem ties_same {s t : State} (hq : t.queue.prints = s.queue.prints := by rfl)
    (ht : t.registry.table = s.registry.table := by rfl) (hs : t.colour.sets = s.colour.sets := by rfl)
    (x : Nat → Prop) (l : TiesBut x s) : TiesBut x t :=
  l.pass (fun q m => ⟨q, hq ▸ m, rfl, rfl⟩) (fun d m => ⟨d, ht ▸ m, .refl d⟩) (TiesBut.ofSets hs)

/-- The law of the reservations where neither the records, nor the ready order, nor the supplies change. -/
theorem supply_same {s t : State} (hq : t.queue.prints = s.queue.prints := by rfl)
    (ho : t.queue.readyOrder = s.queue.readyOrder := by rfl) (hu : ∀ c, t.usable c = s.usable c := by exact fun _ => rfl)
    (x : Chan → Prop) (l : SupplyBut x s) : SupplyBut x t :=
  l.same hq ho fun c => .inr (Nat.le_of_eq (hu c).symm)

/-- A change of the ink alone, as far as the laws of the prints, the roll and the editions go. -/
theorem Core.same {t : State} (g : Held s t) (hq : t.queue.prints = s.queue.prints := by rfl)
    (he : t.engine.state = s.engine.state := by rfl) (hm : t.store.openPrint = s.store.openPrint := by rfl)
    (hr : t.media = s.media := by rfl) (hl : t.cost.log = s.cost.log := by rfl)
    (ht : t.registry.table = s.registry.table := by rfl) (hc : t.colour.sets = s.colour.sets := by rfl) : Core s t :=
  ⟨g, fun w => by rw [WorkLaw, hq, he, hm, hr, hl, ht]; exact w, fun _ => ties_same hq ht hc,
   fun _ n k x => by rw [StageAt, hq]; exact x⟩

/-- An operation that touches nothing the laws of the prints, the roll and the editions speak of. -/
theorem Kept.same {t : State} (h : Kept r s) (g : Held r t) (hq : t.queue.prints = s.queue.prints := by rfl)
    (he : t.engine.state = s.engine.state := by rfl) (hm : t.store.openPrint = s.store.openPrint := by rfl)
    (hr : t.media = s.media := by rfl) (hl : t.cost.log = s.cost.log := by rfl)
    (ht : t.registry.table = s.registry.table := by rfl) (hc : t.colour.sets = s.colour.sets := by rfl)
    (ho : t.queue.readyOrder = s.queue.readyOrder := by rfl) (hu : ∀ c, t.usable c = s.usable c := by exact fun _ => rfl) :
    Kept r t :=
  h.ofWork g (fun w => by rw [WorkLaw, hq, he, hm, hr, hl, ht]; exact w)
    (fun _ n k x => by rw [StageAt, hq]; exact x) (fun _ => ties_same hq ht hc) fun _ => supply_same hq ho hu

/-- A change of the print queue that leaves its records and their order. -/
theorem Kept.ofQueue (h : Kept r s) (q : PrintQueue) (hq : q.prints = s.queue.prints := by rfl)
    (ho : q.readyOrder = s.queue.readyOrder := by rfl) : Kept r { s with queue := q } :=
  h.same (h.toHeld.ofQueue q (Nat.le_of_eq (congrArg List.length hq))) hq (ho := ho)

/-- A change of the records that the laws do not see. -/
theorem Kept.ofPrints (h : Kept r s) (q : PrintQueue) (g : PrintRecord → PrintRecord)
    (hq : q.prints = s.queue.prints.map g) (hg : WorkLaw s → ∀ p ∈ s.queue.prints, Quiet p (g p))
    (ho : q.readyOrder = s.queue.readyOrder := by rfl) : Kept r { s with queue := q } := by
  refine h.ofWork (h.toHeld.ofQueue q (by simp [hq])) (fun w => ?_) (fun w n k x p hp hn => ?_) (fun w x l =>
    l.pass (fun q hm => ?_) (fun d m => ⟨d, m, .refl d⟩) fun _ => id) fun w x l => l.quiet hq (hg w) ho fun _ => rfl
  · simpa only [WorkLaw, hq] using w.quiet (hg w)
  · simp only [hq, List.mem_map] at hp
    obtain ⟨p', hp', rfl⟩ := hp
    rw [(hg w p' hp').stage]
    exact x p' hp' ((hg w p' hp').handle ▸ hn)
  · simp only [hq, List.mem_map] at hm
    obtain ⟨p, hp, rfl⟩ := hm
    exact ⟨p, hp, (hg w p hp).edition.symm, (hg w p hp).refSet.symm⟩

theorem Kept.ofClock (h : Kept r s) (k : Clock) (hk : k.day = s.clock.day) : Kept r { s with clock := k } :=
  h.same (h.toHeld.ofClock k hk)

theorem Kept.ofInputs (h : Kept r s) (i : SensorLevels) : Kept r { s with inputs := i } := h.same (h.toHeld.ofInputs i)

theorem Kept.ofLinks (h : Kept r s) (k : Links) : Kept r { s with links := k } := h.same (h.toHeld.ofLinks k)

theorem Kept.ofCutter (h : Kept r s) (k : Cutter) : Kept r { s with cutter := k } := h.same (h.toHeld.ofCutter k)

theorem Kept.ofStartUp (h : Kept r s) (u : StartUp) : Kept r { s with startUp := u } := h.same (h.toHeld.ofStartUp u)

/-- A change of the transport that keeps the law of the roll, the bound of the station list, and the hold or ends it. -/
theorem Kept.ofMedia (h : Kept r s) (m : MediaTransport)
    (hm : StationLaw s → StationLaw { s with media := m })
    (hn : s.media.stations.length ≤ 16 → m.stations.length ≤ 16) (hw : WorkLaw r → WorkLaw s → RollLaw m)
    (hh : WorkLaw r → WorkLaw s → m.hold = s.media.hold ∨ (∀ n, m.hold ≠ .positioning n) ∨ s.store.openPrint = none := by
      exact fun _ _ => .inl rfl) : Kept r { s with media := m } :=
  h.ofWorkFrom (h.toHeld.ofMedia m hm hn) (fun wr w => w.media (fun _ => hw wr w) (hh wr w)) (fun _ _ _ _ x => x)
    (fun _ => ties_same) fun _ => supply_same

/-- A change of the colour unit that keeps its sets. -/
theorem Kept.ofColour (h : Kept r s) (u : ColourUnit) (hu : ∀ i : Fin 32, SetKept s.colour.sets[i] u.sets[i])
    (ht : ∀ x, TiesBut x s → TiesBut x { s with colour := u }) : Kept r { s with colour := u } :=
  h.ofWork (h.toHeld.ofColour u hu) (fun w => w) (fun _ _ _ x => x) (fun _ => ht) fun _ => supply_same

/-- A change of the colour unit that leaves its sets. -/
theorem Kept.ofColour' (h : Kept r s) (u : ColourUnit) (hu : u.sets = s.colour.sets) :
    Kept r { s with colour := u } := h.same (h.toHeld.ofColour' u hu) (hc := hu)

/-- A change of entries of the registry that the law of the editions does not see. -/
theorem Kept.ofEntries (h : Kept r s) (g : Registry) (f : Edition → Edition) (hg : g.table = s.registry.table.map f)
    (hc : g.closedIds = s.registry.closedIds) (hf : WorkLaw s → ∀ e ∈ s.registry.table, QuietEntry e (f e)) :
    Kept r { s with registry := g } :=
  h.ofWork (h.toHeld.ofRegistry g (by simp [hg]) hc)
    (fun w => ⟨w.rollLaw, w.printsLaw, by simpa only [hg] using w.editionLaw.quietEntries (hf w)⟩) (fun _ _ _ x => x)
    (fun w x l => l.pass (fun q m => ⟨q, m, rfl, rfl⟩) (fun d m => by
      simp only [hg, List.mem_map] at m
      obtain ⟨e, he, rfl⟩ := m
      exact ⟨e, he, (hf w e he).tieKept⟩) fun _ => id) fun _ => supply_same

/-- A change of the cost unit that keeps its tables and its records. -/
theorem Kept.ofCost (h : Kept r s) (k : CostUnit) (ht : k.tariff = s.cost.tariff) (hm : k.media = s.cost.media)
    (hl : k.log = s.cost.log) : Kept r { s with cost := k } :=
  h.same (h.toHeld.ofCost k ht hm (by rw [hl])) rfl rfl rfl rfl hl

/-- A change of the engine link that keeps its routing, its state and the silence law. -/
theorem Kept.ofEngine (h : Kept r s) (e : EngineLink) (hr : e.haltRouting = s.engine.haltRouting)
    (hs : SilenceLaw s → SilenceLaw { s with engine := e }) (he : e.state = s.engine.state := by rfl) :
    Kept r { s with engine := e } := h.same (h.toHeld.ofEngine e hr hs) rfl he

/-- A change of the control link's lines, notices and lists that keeps its settings, its masks and its bounds. -/
theorem Kept.ofControl (h : Kept r s) (k : ControlLink)
    (hs : State.stored { s with control := k } = s.stored)
    (hm : ∀ n : NoticeKind, (k.notices[n.index]).mask = (s.notice n).mask)
    (hl : s.control.sendList.length ≤ 32 → k.sendList.length ≤ 32)
    (hr : s.control.receiveList.length ≤ 4 → k.receiveList.length ≤ 4) : Kept r { s with control := k } :=
  h.same (h.toHeld.ofControl k hs hm hl hr)

/-- A change of the ink supply that keeps the colour codes, the laws of the channels, the memory table's bound and the usable
supplies. -/
theorem Kept.ofInk (h : Kept r s) (k : InkSupply)
    (hc : ∀ c : Chan, (k.channels[c]).colourCode = (s.channel c).colourCode)
    (hp : ∀ c : Chan, ChannelLaw (s.channel c) → ChannelLaw k.channels[c])
    (hm : s.ink.memory.length ≤ 32 → k.memory.length ≤ 32)
    (hu : ∀ c : Chan, (k.channels[c]).usable = (s.channel c).usable := by exact fun _ => rfl) :
    Kept r { s with ink := k } := h.same (h.toHeld.ofInk k hc hp hm) (hu := hu)

/-- A change of the meter that keeps its tables and the bound of the residues. -/
theorem Kept.ofMeter (h : Kept r s) (m : InkMeter) (hs : State.stored { s with meter := m } = s.stored)
    (hr : ∀ c : Chan, s.meter.residues[c] < Config.unitsPerNl → m.residues[c] < Config.unitsPerNl) :
    Kept r { s with meter := m } := h.same (h.toHeld.ofMeter m hs hr)

/-- A change of the store that keeps the ink checkpoint and the open-print marker. -/
theorem Kept.ofStore (h : Kept r s) (k : Store) (hk : k.ink = s.store.ink)
    (ho : k.openPrint = s.store.openPrint := by rfl) : Kept r { s with store := k } :=
  h.same (h.toHeld.ofStore k hk) rfl rfl ho

/-- An operation made for each member of a list. -/
theorem foldl_kept {α : Type} (f : State → α → State) (hf : ∀ {r s} a, Kept r s → Kept r (f s a)) (l : List α)
    (h : Kept r s) : Kept r (l.foldl f s) := by
  induction l generalizing s with
  | nil => exact h
  | cons a l ih => exact ih (hf a h)

end Sys2Proof.Machine
end

