-- ==== Sys2Proof/Laws/KeptOps.lean ====
section
/-! SUPPORT. What the operations of Machine/Ops.lean and Release.lean keep: one lemma each. -/

namespace Sys2Proof.Machine

set_option Elab.async false

open Sys2Proof

variable {r s : State}

/-! ## One record of a table -/

theorem mapPrint_held (h : Held r s) (n : Nat) (f : PrintRecord → PrintRecord) : Held r (s.mapPrint n f) :=
  h.ofQueue _ (by simp)

theorem dropPrint_held (h : Held r s) (n : Nat) : Held r (s.dropPrint n) :=
  h.ofQueue _ (List.length_filter_le _ _)

theorem unready_held (h : Held r s) (n : Nat) : Held r (s.unready n) := h.ofQueue _ (Nat.le_refl _)

/-- A record of the queue is the one that its handle names. -/
theorem findPrint_of_mem (w : WorkLaw s) {p : PrintRecord} (hp : p ∈ s.queue.prints) :
    s.findPrint p.handle = some p := by
  cases hf : s.findPrint p.handle with
  | none =>
    have := List.find?_eq_none.mp hf p hp
    simp at this
  | some q =>
    obtain ⟨a, b, he, hq, ha, hb⟩ := split_print w.printsLaw.handles hf
    rw [he] at hp
    rcases List.mem_append.mp hp with x | x
    · exact absurd rfl (ha p x)
    · rcases List.mem_cons.mp x with x | x
      · rw [x]
      · exact absurd rfl (hb p x)

/-- A print's record, changed in nothing the laws see. -/
theorem mapPrint_kept (h : Kept r s) (n : Nat) (f : PrintRecord → PrintRecord)
    (hf : ∀ p, s.findPrint n = some p → Quiet p (f p) := by
      exact fun _ _ => ⟨rfl, rfl, rfl, rfl, rfl, .inl rfl, .inl, fun _ => Nat.le_refl _⟩) : Kept r (s.mapPrint n f) :=
  h.ofPrints _ (fun p => if p.handle == n then f p else p) rfl fun w p hp => by
    split
    · rename_i e
      exact hf p (by rw [← eq_of_beq e]; exact findPrint_of_mem w hp)
    · exact .refl _

/-- A channel's record, changed in a way that keeps its colour code and its laws. -/
theorem mapChannel_held (h : Held r s) (c : Chan) (f : Channel → Channel)
    (hc : (f (s.channel c)).colourCode = (s.channel c).colourCode)
    (hp : ChannelLaw (s.channel c) → ChannelLaw (f (s.channel c))) : Held r (s.mapChannel c f) := by
  refine h.ofInk _ (fun d => ?_) (fun d => ?_) id
  all_goals
    by_cases hd : c = d
    · subst hd; simpa [Vector.getElem_set] using by first | exact hc | exact hp
    · have hv : c.val ≠ d.val := fun e => hd (Fin.ext e)
      simp [State.channel, hv]

/-- One channel's record after a change of it, and the others'. -/
theorem mapChannel_channel (s : State) (c : Chan) (f : Channel → Channel) (d : Chan) :
    (s.mapChannel c f).channel d = if d = c then f (s.channel c) else s.channel d := by
  by_cases hd : d = c
  · subst hd
    simp [State.channel]
  · have hv : c.val ≠ d.val := fun e => hd (Fin.ext e).symm
    simp [State.channel, hd, hv]

/-- The same, with its usable supply kept. -/
theorem mapChannel_kept (h : Kept r s) (c : Chan) (f : Channel → Channel)
    (hc : (f (s.channel c)).colourCode = (s.channel c).colourCode)
    (hp : ChannelLaw (s.channel c) → ChannelLaw (f (s.channel c)))
    (hu : (f (s.channel c)).usable = (s.channel c).usable := by rfl) : Kept r (s.mapChannel c f) := by
  refine h.same (mapChannel_held h.toHeld c f hc hp) (hu := fun d => ?_)
  rw [State.usable, mapChannel_channel]
  split
  · rename_i hd
    rw [hu, hd]
    rfl
  · rfl

/-- A channel's record, changed in neither colour code nor ink nor pump nor cartridge. -/
theorem mapChannel_kept' (h : Kept r s) (c : Chan) (f : Channel → Channel)
    (hf : ∀ ch, (f ch).colourCode = ch.colourCode ∧ (f ch).level = ch.level ∧ (f ch).parcels = ch.parcels ∧
      (f ch).job = ch.job ∧ (f ch).pumpRun = ch.pumpRun ∧ (f ch).cartridgeVolume = ch.cartridgeVolume := by
        exact fun _ => ⟨rfl, rfl, rfl, rfl, rfl, rfl⟩) :
    Kept r (s.mapChannel c f) := by
  obtain ⟨hc, hl, hp, hj, hr, hv⟩ := hf (s.channel c)
  refine mapChannel_kept h c f hc (fun l => ⟨by rw [hl, hp]; exact l.parcels, ⟨?_, ?_⟩⟩) ?_
  · rw [hl, hp, hj, hr]; exact l.pump.fits
  · rw [hj, hr]; exact l.pump.still
  · rw [Channel.usable, hl, hv]
    rfl

/-- The entry that an id names is the one of the table with that id. -/
theorem findEdition_of_mem (w : WorkLaw s) {e : Edition} (he : e ∈ s.registry.table) :
    s.findEdition e.id = some e := by
  have hn := w.editionLaw.ids
  unfold State.findEdition
  generalize s.registry.table = table at he hn ⊢
  induction table with
  | nil => cases he
  | cons d l ih =>
    rw [List.map_cons, List.nodup_cons] at hn
    rcases List.mem_cons.mp he with rfl | he
    · simp
    · have : d.id ≠ e.id := fun x => hn.1 (x ▸ List.mem_map.mpr ⟨e, he, rfl⟩)
      rw [List.find?_cons_of_neg (by simpa using this)]
      exact ih he hn.2

theorem mapEdition_held (h : Held r s) (id : Nat) (f : Edition → Edition) : Held r (s.mapEdition id f) :=
  h.ofRegistry _ (by simp) rfl

/-- An entry, changed in nothing the law of the editions sees. -/
theorem mapEdition_kept (h : Kept r s) (id : Nat) (f : Edition → Edition)
    (hf : ∀ e, s.findEdition id = some e → QuietEntry e (f e) := by
      exact fun _ _ => ⟨rfl, rfl, rfl, rfl, rfl, rfl, rfl, rfl, by simp⟩) : Kept r (s.mapEdition id f) :=
  h.ofEntries _ (fun e => if e.id == id then f e else e) rfl rfl fun w e he => by
    split
    · rename_i hi
      exact hf e (by rw [← eq_of_beq hi]; exact findEdition_of_mem w he)
    · exact .refl e

theorem mapEditionOf_held (h : Held r s) (p : PrintRecord) (f : Edition → Edition) : Held r (s.mapEditionOf p f) := by
  unfold State.mapEditionOf
  split
  · exact mapEdition_held h _ _
  · exact h

/-- The transport, changed in neither its station list nor what the law of the roll and the hold say of it. -/
theorem mapMedia_kept (h : Kept r s) (f : MediaTransport → MediaTransport)
    (hf : ∀ m, (f m).stations = m.stations := by exact fun _ => rfl)
    (hw : ∀ m, RollLaw m → RollLaw (f m) := by
      first
        | exact fun _ l => ⟨l.order, l.ahead, l.moving⟩
        | exact fun _ l => ⟨l.order, l.ahead, fun _ e => by cases e⟩
        | exact fun _ l => ⟨l.order, l.ahead, fun v e => by simpa using l.moving v e⟩)
    (hh : ∀ m, (f m).hold = m.hold ∨ ∀ n, (f m).hold ≠ .positioning n := by
      first
        | exact fun _ => .inl rfl
        | exact fun _ => .inr fun _ => by simp) : Kept r (s.mapMedia f) :=
  h.ofMedia _ (fun l => by simpa only [StationLaw, hf] using l) (fun l => by simpa only [hf] using l)
    (fun _ w => hw _ w.rollLaw) fun _ _ => (hh _).imp_right .inl

theorem mapMedia_held (h : Held r s) (f : MediaTransport → MediaTransport)
    (hf : ∀ m, (f m).stations = m.stations := by exact fun _ => rfl) : Held r (s.mapMedia f) := h.ofMedia' _ (hf _)

/-- The roll's geometry, changed with H kept. -/
theorem mapRoll_kept (h : Kept r s) (f : RollGeometry → RollGeometry)
    (hf : ∀ g, (f g).head = g.head := by exact fun _ => rfl) : Kept r (s.mapRoll f) :=
  h.ofMedia _ (fun l => l) (fun l => l) fun _ w =>
    ⟨w.rollLaw.order, fun e he => by rw [hf]; exact w.rollLaw.ahead e he,
      fun v hv => by rw [hf]; exact w.rollLaw.moving v hv⟩

theorem mapCutter_kept (h : Kept r s) (f : Cutter → Cutter) : Kept r (s.mapCutter f) := h.ofCutter _

/-- The colour unit, changed in anything but its sets. -/
theorem mapColour_kept (h : Kept r s) (f : ColourUnit → ColourUnit) (hf : ∀ u, (f u).sets = u.sets := by exact fun _ => rfl) :
    Kept r (s.mapColour f) := h.ofColour' _ (hf _)

/-- The engine link, changed in nothing the silence law speaks of. -/
theorem mapEngine_held (h : Held r s) (f : EngineLink → EngineLink)
    (hf : ∀ e, (f e).haltRouting = e.haltRouting ∧ (f e).silence = e.silence ∧ (f e).state = e.state ∧
      (f e).halt = e.halt ∧ (f e).feedAsk = e.feedAsk := by
        exact fun _ => ⟨rfl, rfl, rfl, rfl, rfl⟩) : Held r (s.mapEngine f) := by
  obtain ⟨hr, hs, ht, hh, ha⟩ := hf s.engine
  exact h.ofEngine _ hr fun l => by simpa only [SilenceLaw, hs, ht, hh, ha] using l

theorem mapEngine_kept (h : Kept r s) (f : EngineLink → EngineLink)
    (hf : ∀ e, (f e).haltRouting = e.haltRouting ∧ (f e).silence = e.silence ∧ (f e).state = e.state ∧
      (f e).halt = e.halt ∧ (f e).feedAsk = e.feedAsk := by
        exact fun _ => ⟨rfl, rfl, rfl, rfl, rfl⟩) : Kept r (s.mapEngine f) :=
  h.same (mapEngine_held h.toHeld f hf) rfl (hf s.engine).2.2.1

/-- The engine link, with its silence timer stopped. -/
theorem mapEngine_stilled (h : Held r s) (f : EngineLink → EngineLink)
    (hf : ∀ e, (f e).haltRouting = e.haltRouting ∧ (f e).silence = none := by exact fun _ => ⟨rfl, rfl⟩) :
    Held r (s.mapEngine f) := h.ofEngine _ (hf _).1 fun _ hq => by simp [(hf _).2] at hq

/-- The engine link in the state it was in, with its silence timer stopped. -/
theorem mapEngine_quiet (h : Kept r s) (f : EngineLink → EngineLink)
    (hf : ∀ e, (f e).haltRouting = e.haltRouting ∧ (f e).silence = none := by exact fun _ => ⟨rfl, rfl⟩)
    (hs : ∀ e, (f e).state = e.state := by exact fun _ => rfl) : Kept r (s.mapEngine f) :=
  h.same (mapEngine_stilled h.toHeld f hf) rfl (hs _)

theorem tell_held (h : Held r s) (f : EngineFrame) : Held r (s.tell f) := mapEngine_held h _

theorem tell_kept (h : Kept r s) (f : EngineFrame) : Kept r (s.tell f) := mapEngine_kept h _

theorem command_kept (h : Kept r s) (f : SpectroCommand) : Kept r (s.command f) := mapColour_kept h _

/-! ## Notices and replies -/

/-- A notice kind's pending state, changed with its mask kept. -/
theorem mapNotice_kept (h : Kept r s) (k : NoticeKind) (f : NoticeState → NoticeState)
    (hm : ∀ n, (f n).mask = n.mask := by exact fun _ => rfl) : Kept r (s.mapNotice k f) := by
  have hf := hm (s.notice k)
  refine h.ofControl _ rfl (fun n => ?_) id id
  by_cases hk : k.index = n.index
  · have hv : k.index.val = n.index.val := congrArg _ hk
    simp only [State.notice, Fin.getElem_fin] at hf
    simp [State.notice, hv] at hf ⊢
    exact hf
  · have hv : k.index.val ≠ n.index.val := fun e => hk (Fin.ext e)
    simp [State.notice, hv]

/-- A frame joins a send list that holds fewer than 32. -/
theorem push_kept (h : Kept r s) (f : ControlFrame) (hl : s.control.sendList.length < 32) : Kept r (s.push f) :=
  h.ofControl _ rfl (fun _ => rfl) (fun _ => by simpa using hl) id

theorem noticeRoom_lt (h : s.noticeRoom = true) : s.control.sendList.length < 32 := by
  simp only [State.noticeRoom, Config.sendRoom, decide_eq_true_eq] at h
  omega

theorem raise_kept (h : Kept r s) (b : NoticeBody) : Kept r (raise b s) := by
  unfold raise
  split
  · exact mapNotice_kept h _ _
  · split
    · exact push_kept h _ (noticeRoom_lt ‹_›)
    · exact mapNotice_kept h _ _

theorem flushKind_kept (h : Kept r s) (d : Bool) (k : NoticeKind) : Kept r (flushKind d k s) := by
  unfold flushKind
  dsimp only
  split
  · exact h
  · split
    · exact mapNotice_kept (push_kept h _ (noticeRoom_lt ‹_›)) _ _
    · exact mapNotice_kept h _ _

theorem flushDeferred_kept (h : Kept r s) : Kept r (flushDeferred s) := by
  refine foldl_kept _ (fun k hk => ?_) _ h
  split
  · exact flushKind_kept hk _ _
  · exact hk

theorem reply_kept (h : Kept r s) (tag : Nat) (code : ReplyCode) (kind : Nat) (fields : ReplyFields) :
    Kept r (reply tag code kind fields s) := by
  unfold reply
  dsimp only
  split
  · exact push_kept h _ ‹_›
  · refine h.ofControl _ rfl (fun _ => rfl) (fun hl => ?_) id
    simp only [State.mapControl, List.length_append, List.length_drop, List.length_singleton]
    omega

theorem request_kept (h : Kept r s) (tag kind : Nat) (level : AccessLevel) (body : State → State)
    (hb : ∀ {t}, Kept r t → Kept r (body t)) : Kept r (request tag kind level body s) := by
  unfold request
  split
  · exact hb h
  · exact reply_kept h _ _ _ _

theorem printNotice_kept (h : Kept r s) (n : Nat) (news : PrintNews) : Kept r (printNotice n news s) := by
  unfold printNotice
  split
  · exact raise_kept h _
  · exact h

theorem rollNotice_kept (h : Kept r s) (news : RollNews) : Kept r (rollNotice news s) := raise_kept h _

theorem cutNotice_kept (h : Kept r s) (news : CutNews) : Kept r (cutNotice news s) := raise_kept h _

theorem engineNotice_kept (h : Kept r s) (news : EngineNews) : Kept r (engineNotice news s) := raise_kept h _

theorem editionNotice_kept (h : Kept r s) (news : Edition → EditionNews) (id : Nat) : Kept r (editionNotice news id s) := by
  unfold editionNotice
  split
  · exact raise_kept h _
  · exact h

theorem cartridgeNotice_kept (h : Kept r s) (c : Chan) : Kept r (cartridgeNotice c s) := raise_kept h _

theorem inkNotice_kept (h : Kept r s) (c : Chan) : Kept r (inkNotice c s) := by
  unfold inkNotice
  exact mapChannel_kept' (raise_kept h _) c _

theorem reportDropped_kept (h : Kept r s) (reason : DropReason) (l : List Station) :
    Kept r (reportDropped reason l s) := foldl_kept _ (fun _ hk => cutNotice_kept hk _) _ h

/-! ## HALT, the silence timer, the panel -/

/-- After a change of the engine link that keeps its routing, the silence timer's start makes the silence law good. -/
theorem silenceStart_held (h : Held r s) (f : EngineLink → EngineLink)
    (hf : ∀ e, (f e).haltRouting = e.haltRouting := by exact fun _ => rfl) : Held r (silenceStart (s.mapEngine f)) := by
  have some_of_true : ∀ (b : Bool) (n : Nat), (if b then some n else none).isSome = true → b = true := by
    intro b n
    cases b <;> simp
  refine h.ofEngine _ (hf _) fun _ hq => ?_
  have hm := some_of_true _ _ hq
  simp only [State.silenceMayRun, Bool.and_eq_true, beq_iff_eq, Bool.not_eq_true', Option.isNone_iff_eq_none] at hm
  exact ⟨hm.1.1, hm.1.2, hm.2⟩

theorem silenceStart_kept (h : Kept r s) (f : EngineLink → EngineLink)
    (hf : ∀ e, (f e).haltRouting = e.haltRouting := by exact fun _ => rfl)
    (hs : ∀ e, (f e).state = e.state := by exact fun _ => rfl) : Kept r (silenceStart (s.mapEngine f)) :=
  h.same (silenceStart_held h.toHeld f hf) rfl (hs _)

theorem silenceRefresh_kept (h : Kept r s) : Kept r (silenceRefresh s) :=
  h.ofEngine _ rfl fun l => by simpa [SilenceLaw] using l

theorem haltUpdate_kept (h : Kept r s) : Kept r (haltUpdate s) := by
  unfold haltUpdate
  dsimp only
  split
  · exact h
  · exact engineNotice_kept (silenceStart_kept h (fun e => { e with halt := s.haltLevel })) _

theorem refreshPanel_kept (h : Kept r s) : Kept r (refreshPanel s) := h.ofControl _ rfl (fun _ => rfl) id id

/-! ## Checkpoints, flags, the station list, time -/

theorem saveInk_held (h : Held r s) : Held r (saveInk s) :=
  h.trans ⟨rfl, rfl, fun _ => rfl, fun _ => rfl, fun _ => .refl _, List.prefix_refl _, List.prefix_refl _,
    ⟨fun l => fun c => ⟨(l c).1, by simpa [saveInk, savedInk] using (l c).1.parcels⟩,
     fun l => fun c => ⟨(l c).1, by simpa [saveInk, savedInk] using (l c).1⟩, id, fun l => { l with }, id⟩⟩

theorem saveInk_kept (h : Kept r s) : Kept r (saveInk s) := h.same (saveInk_held h.toHeld)

theorem saveRoll_kept (h : Kept r s) : Kept r (saveRoll s) := by
  unfold saveRoll
  split
  · exact h
  · exact h.ofStore _ rfl

theorem setRefillMarker_kept (h : Kept r s) (c : Chan) (b : Bool) : Kept r (setRefillMarker c b s) := h.ofStore _ rfl

theorem setOpenMarker_held (h : Held r s) (m : Option OpenMarker) : Held r (setOpenMarker m s) := h.ofStore _ rfl

theorem rollLowCheck_kept (h : Kept r s) : Kept r (rollLowCheck s) := by
  unfold rollLowCheck
  split
  · exact rollNotice_kept (mapMedia_kept h _) _
  · exact h

theorem earlyFullCheck_kept (h : Kept r s) : Kept r (earlyFullCheck s) := by
  unfold earlyFullCheck
  split
  · split
    · refine raise_kept ?_ _
      exact h.ofCost _ rfl rfl rfl
    · exact h
  · exact h.ofCost _ rfl rfl rfl

/-- The order of triggers, a SCAN first, is transitive. -/
theorem before_trans {a b c : Station} (h : b.before a = false) (g : c.before b = false) : c.before a = false := by
  simp only [Station.before, Bool.or_eq_false_iff, decide_eq_false_iff_not, Bool.and_eq_false_iff, beq_eq_false_iff_ne,
    bne_eq_false_iff_eq] at *
  obtain ⟨h1, h2⟩ := h
  obtain ⟨g1, g2⟩ := g
  refine ⟨by omega, ?_⟩
  by_cases e : c.trigger = a.trigger
  · have e1 : c.trigger = b.trigger := by omega
    have e2 : b.trigger = a.trigger := by omega
    rcases g2 with (g2 | g2) | g2
    · exact absurd e1 g2
    · exact .inl (.inr g2)
    · rcases h2 with (h2 | h2) | h2
      · exact absurd e2 h2
      · exact absurd g2 h2
      · exact .inr h2
  · exact .inl (.inl e)

/-- An entry that stands before another does not stand after it. -/
theorem before_asymm {a b : Station} (h : a.before b = true) : b.before a = false := by
  simp only [Station.before, Bool.or_eq_true, decide_eq_true_eq, Bool.and_eq_true, beq_iff_eq, bne_iff_ne,
    Bool.or_eq_false_iff, decide_eq_false_iff_not, Bool.and_eq_false_iff, beq_eq_false_iff_ne,
    bne_eq_false_iff_eq] at *
  rcases h with h | ⟨⟨h1, h2⟩, h3⟩
  · exact ⟨by omega, .inl (.inl (by omega))⟩
  · exact ⟨by omega, .inl (.inr h3)⟩

theorem mem_insertStation {e x : Station} {l : List Station} (h : x ∈ insertStation e l) : x = e ∨ x ∈ l := by
  induction l with
  | nil => simpa [insertStation] using h
  | cons y l ih =>
    unfold insertStation at h
    split at h
    · simpa using h
    · rcases List.mem_cons.mp h with rfl | h
      · exact .inr (List.mem_cons_self ..)
      · exact (ih h).imp_right (List.mem_cons_of_mem _)

/-- An entry joins an ordered list in its place. -/
theorem insertStation_ordered (e : Station) {l : List Station} (h : l.Pairwise fun a b => b.before a = false) :
    (insertStation e l).Pairwise fun a b => b.before a = false := by
  induction l with
  | nil => simp [insertStation]
  | cons y l ih =>
    have hy := List.pairwise_cons.mp h
    unfold insertStation
    split
    · rename_i hb
      refine List.pairwise_cons.mpr ⟨fun x hx => ?_, h⟩
      rcases List.mem_cons.mp hx with rfl | hx
      · exact before_asymm hb
      · exact before_trans (before_asymm hb) (hy.1 x hx)
    · rename_i hb
      refine List.pairwise_cons.mpr ⟨fun x hx => ?_, ih hy.2⟩
      rcases mem_insertStation hx with rfl | hx
      · simpa using hb
      · exact hy.1 x hx

theorem length_insertStation (e : Station) (l : List Station) : (insertStation e l).length = l.length + 1 := by
  induction l with
  | nil => rfl
  | cons y l ih =>
    unfold insertStation
    split
    · rfl
    · simp [ih]

/-- An entry is listed where the list has room, ahead of H and of a movement under way. -/
theorem listStation_kept (h : Kept r s) (e : Station) (hl : s.media.stations.length < 16)
    (hw : WorkLaw r → WorkLaw s → s.media.roll.head ≤ e.trigger ∧ ∀ v, s.media.movement = some v → v.target ≤ e.trigger) :
    Kept r (listStation e s) := by
  refine h.ofMedia _ (fun l => insertStation_ordered e l) (fun _ => ?_) fun wr w => ⟨?_, fun x hx => ?_, fun v hv => ?_⟩
  · rw [length_insertStation]
    omega
  · exact insertStation_ordered e w.rollLaw.order
  · rcases mem_insertStation hx with rfl | hx
    · exact (hw wr w).1
    · exact w.rollLaw.ahead x hx
  · obtain ⟨h1, h2, h3⟩ := w.rollLaw.moving v hv
    refine ⟨h1, h2, fun x hx => ?_⟩
    rcases mem_insertStation hx with rfl | hx
    · exact (hw wr w).2 v hv
    · exact h3 x hx

theorem unlist_kept (h : Kept r s) (t : Station → Bool) : Kept r (unlist t s) :=
  h.ofMedia _ (fun l => List.Pairwise.sublist List.filter_sublist l) (fun l => (List.length_filter_le _ _).trans l)
    fun _ w => ⟨List.Pairwise.sublist List.filter_sublist w.rollLaw.order,
      fun e he => w.rollLaw.ahead e (List.mem_filter.mp he).1,
      fun v hv => ⟨(w.rollLaw.moving v hv).1, (w.rollLaw.moving v hv).2.1,
        fun e he => (w.rollLaw.moving v hv).2.2 e (List.mem_filter.mp he).1⟩⟩

theorem timeTo_kept (h : Kept r s) (d : Nat) : Kept r (timeTo d s) := h.ofClock _ rfl

/-! ## The release checks -/

/-- A WAITING print that its edition and the cost log have room for is released. -/
theorem releasePrint_kept (h : Kept r s) {n : Nat} {p : PrintRecord} (hp : s.findPrint n = some p)
    (hs : p.state = .waiting) (he : s.editionFits p = true) (hc : s.costFits = true)
    (hi : ∀ c, s.inkFits p c = true) :
    Kept r (releasePrint p s) := by
  have hn := findPrint_handle hp
  subst hn
  unfold releasePrint
  have hr := replaced_mapAt (n := p.handle) (p := p)
    (fun q => { q with state := .ready, heldFor := [], reservation := Vector.ofFn fun c : Chan => s.wanted p c })
    s.queue.prints rfl
  refine earlyFullCheck_kept (printNotice_kept (h.ofWork ?_ (fun w => ?_) (fun w m k => ?_)
    (fun w => ties_change w hp (fun e => e.mapInFlight p.kind (· + 1)) (by simpa [mapAt] using hr) (by simp) (by simp)
      (fun e => mapInFlight_tieKept e _ _) (by simp))
    fun w => supply_change w hp (c := [{ p with state := .ready, heldFor := []
                                                reservation := Vector.ofFn fun c : Chan => s.wanted p c }])
      (by simpa [mapAt] using hr) (Nat.le_refl _) (.joins _ (by simp) (by simp [hs]) rfl rfl rfl) (fun d => by simp [State.usable, State.channel]) fun d => ?_) _ _)
  · exact Held.ofQueue (mapPrint_held (mapEditionOf_held h.toHeld _ _) _ _) _ (Nat.le_refl _)
  · have hu := w.printsLaw.undecided p (findPrint_mem hp) (.inl (by simp [PrintRecord.imaged, hs]))
    have hw := w.printsLaw.awaiting p (findPrint_mem hp)
    refine work_change w hp (fun e => e.mapInFlight p.kind (· + 1)) (by simpa [mapAt] using hr) (by simp) (by simp) ?_
      (by simp) (.stays (by simp [actives, hs]) (by simp)) (by simpa using w.printsLaw.printing)
      (by simpa using w.printsLaw.positioning) ?_ ?_ (by simpa using w.rollLaw)
    · intro e hm hid _ _ hl hal
      have hfe : s.findEdition e.id = some e := findEdition_of_mem w hm
      have hroom : p.kind ≠ .proof → (e.load p.kind).1 < (e.load p.kind).2 := by
        intro hk
        have he : e.room p.kind = true := by
          cases hp' : p.kind <;> simp only [State.editionFits, hid, hfe, hp'] at he hk ⊢
          · exact he
          · exact he
          · exact absurd rfl hk
        exact of_decide_eq_true (Bool.and_eq_true _ _ ▸ he).2
      cases hk : p.kind <;>
        simp only [hk, ne_eq, reduceCtorEq, not_false_eq_true, forall_const, Edition.load] at hroom <;>
        constructor <;>
        simp [Edition.mapInFlight, flies, flying, PrintRecord.inFlight, PrintRecord.live, hs, hu, hid, hk] <;>
        omega
    · simp only [List.mem_singleton, forall_eq]
      refine ⟨fun _ => hu, fun x => ?_⟩
      simpa [PrintRecord.imaged, hs] using hw x
    · simp only [State.costFits, Config.logRoom, decide_eq_true_eq] at hc
      simp only [live_one, hs, State.mapPrint_cost, State.mapEditionOf_cost]
      simp
      omega
  · exact forward_change w hp (by simpa [mapAt] using hr) (by simp [PrintRecord.stage, hs]) m k
  · have hd := hi d
    have h0 : share d p = 0 := by simp [share, hs]
    simp only [State.inkFits, Bool.or_eq_true, decide_eq_true_eq] at hd
    simp only [share, List.map_cons, List.map_nil, List.sum_cons, List.sum_nil, Fin.getElem_fin, Vector.getElem_ofFn,
      beq_self_eq_true, Bool.true_or, if_true, Nat.add_zero, Fin.eta]
    exact hd.imp (fun e => by rw [e]; exact Nat.zero_le _) fun e => e.trans (Nat.le_add_right _ _)

theorem mem_channelList : ∀ c : Chan, c ∈ channelList := by decide

/-- A print that nothing holds has its ink. -/
theorem inkFits_of_release {p : PrintRecord} (h : s.heldReasons p = []) (c : Chan) : s.inkFits p c = true := by
  simp only [State.heldReasons, List.append_eq_nil_iff, List.map_eq_nil_iff, List.filter_eq_nil_iff] at h
  simpa using h.1.2 c (mem_channelList c)

theorem visitWaiting_kept (h : Kept r s) (n : Nat) : Kept r (visitWaiting s n) := by
  unfold visitWaiting
  split
  · exact h
  · rename_i p hp
    dsimp only
    split
    · rename_i hs
      split
      · rename_i hw
        have hi := inkFits_of_release hw
        simp only [State.heldReasons, List.append_eq_nil_iff] at hw
        refine releasePrint_kept h hp hs ?_ ?_ hi
        · by_contra e
          simp [e] at hw
        · by_contra e
          simp [e] at hw
      · split
        · exact h
        · exact printNotice_kept (mapPrint_kept h _ _) _ _
    · exact h

theorem releaseChecks_kept (h : Kept r s) : Kept r (releaseChecks s) := foldl_kept _ (fun n hk => visitWaiting_kept hk n) _ h

theorem abandonStart_kept (h : Kept r s) (n : Nat) : Kept r (abandonStart n s) := by
  unfold abandonStart
  dsimp only
  exact mapPrint_kept (mapMedia_kept (unlist_kept h _) _) _ _

theorem abandonIfPositioned_kept (h : Kept r s) (n : Nat) : Kept r (abandonIfPositioned n s) := by
  unfold abandonIfPositioned
  split
  · exact abandonStart_kept h _
  · exact h

/-- The print whose record is changed, found again. -/
theorem findPrint_mapPrint {n : Nat} {p : PrintRecord} (f : PrintRecord → PrintRecord)
    (hf : ∀ q, (f q).handle = q.handle) (hp : s.findPrint n = some p) : (s.mapPrint n f).findPrint n = some (f p) := by
  unfold State.findPrint State.mapPrint at *
  dsimp only
  generalize s.queue.prints = l at hp ⊢
  induction l with
  | nil => simp at hp
  | cons x l ih =>
    by_cases hx : x.handle = n
    · simp [hx] at hp
      subst hp
      simp [hx, hf]
    · simp [hx] at hp
      simpa [hx] using ih hp

/-- A print keeps its record, but for its span, when its start is abandoned. -/
theorem abandonIfPositioned_find {n : Nat} {p : PrintRecord} (hp : s.findPrint n = some p) :
    ∃ q, (abandonIfPositioned n s).findPrint n = some q ∧ Quiet p q ∧ q.state = p.state ∧
      q.reservation = p.reservation := by
  unfold abandonIfPositioned
  split
  · refine ⟨{ p with span := none, snapshot := none },
      findPrint_mapPrint _ (fun _ => rfl) (by simpa [State.findPrint] using hp),
      ⟨rfl, rfl, rfl, rfl, rfl, .inl rfl, .inl, fun _ => Nat.le_refl _⟩, rfl, rfl⟩
  · exact ⟨p, hp, .refl p, rfl, rfl⟩

/-- An entry gives up the place of a print in flight whose record no more is, or leaves. -/
theorem follows_lower {p : PrintRecord} {c : List PrintRecord} {e : Edition} (hi : p.inFlight = true)
    (hc : ∀ q ∈ c, q.inFlight = false) (hid : p.editionId = some e.id)
    (h1 : flies p .edition e.id ≤ e.inFlight) (h2 : flies p .artistProof e.id ≤ e.apInFlight)
    (h3 : e.accepted + e.inFlight ≤ e.limit) (h4 : e.apAccepted + e.apInFlight ≤ e.apLimit) :
    Follows p c e (e.mapInFlight p.kind (· - 1)) := by
  have hz : ∀ k, flying c k e.id = 0 := fun k => by
    simp only [flying, List.length_eq_zero_iff, List.filter_eq_nil_iff]
    intro q hq
    simp [hc q hq]
  cases hk : p.kind <;> simp [flies, hi, hid, hk] at h1 h2 <;> constructor <;>
    simp [Edition.mapInFlight, flies, hz, hi, hid, hk] <;> omega

theorem inFlight_ready {p : PrintRecord} (hs : p.state = .ready) (ho : p.outcome = none) : p.inFlight = true := by
  simp [PrintRecord.inFlight, PrintRecord.live, hs, ho]

theorem mapEntries_congr {p q : PrintRecord} (h : Quiet p q) (f : Edition → Edition) (table : List Edition) :
    mapEntries q f table = mapEntries p f table := by
  simp [mapEntries, h.edition]

/-- A READY print goes back to WAITING. -/
theorem giveBack_kept (h : Kept r s) {n : Nat} {p : PrintRecord} (hp : s.findPrint n = some p)
    (hs : p.state = .ready) (reason : HeldReason) : Kept r (giveBack p reason s) := by
  have hn := findPrint_handle hp
  subst hn
  have hu := abandonIfPositioned_kept h p.handle
  obtain ⟨q, hq, hpq, hst, -⟩ := abandonIfPositioned_find hp
  unfold giveBack
  dsimp only
  generalize abandonIfPositioned p.handle s = u at hu hq ⊢
  rw [hs] at hst
  have hr := replaced_mapAt (n := p.handle) (p := q)
    (fun q => { q with state := .waiting, reservation := noReservation, heldFor := [reason] }) u.queue.prints
    (findPrint_handle hq)
  refine hu.ofWork ?_ (fun w => ?_) (fun w m k => ?_) (fun w => ties_change w hq
    (fun e => e.mapInFlight p.kind (· - 1)) (by simpa [mapAt, State.lowerInFlight] using hr)
    (by simp [State.lowerInFlight, mapEntries_congr hpq]) (by simp) (fun e => mapInFlight_tieKept e _ _)
    (by simp [State.lowerInFlight])) fun w => supply_change w hq (by simpa [mapAt, State.lowerInFlight] using hr)
      (Nat.le_refl _) (.leaves (by simp [State.unready, State.lowerInFlight]) (by simp))
      (fun d => by simp [State.usable, State.channel, State.lowerInFlight]) fun d => .inl (by simp [share])
  · exact unready_held (mapPrint_held (mapEditionOf_held hu.toHeld _ _) _ _) _
  · have ho := w.printsLaw.undecided q (findPrint_mem hq) (.inl (by simp [PrintRecord.imaged, hst]))
    have ha := w.printsLaw.awaiting q (findPrint_mem hq)
    have hl := w.printsLaw.places
    refine work_change w hq (fun e => e.mapInFlight p.kind (· - 1)) (by simpa [mapAt, State.lowerInFlight] using hr)
      (by simp [State.lowerInFlight, mapEntries_congr hpq]) (by simp) ?_ (by simp)
      (.stays (by simp [actives, hst]) (by simp [State.lowerInFlight]))
      (by simpa [State.lowerInFlight] using w.printsLaw.printing)
      (by simpa [State.lowerInFlight] using w.printsLaw.positioning) ?_ ?_ (by simpa [State.lowerInFlight] using w.rollLaw)
    · intro e _ hid h1 h2 h3 h4
      rw [← hpq.kind]
      exact follows_lower (inFlight_ready hst ho) (by simp [PrintRecord.inFlight, PrintRecord.live]) hid h1 h2 h3 h4
    · simp only [List.mem_singleton, forall_eq]
      refine ⟨fun _ => ho, fun x => ?_⟩
      simpa [PrintRecord.imaged, hst] using ha x
    · simp only [live_one, hst]
      simp [State.lowerInFlight, State.liveCount]
      omega
  · exact forward_change w hq (by simpa [mapAt, State.lowerInFlight] using hr) (by simp [PrintRecord.stage, hst]) m k

theorem returnToWaiting_kept (h : Kept r s) (n : Nat) (reason : HeldReason) : Kept r (returnToWaiting n reason s) := by
  unfold returnToWaiting
  split
  · exact h
  · split
    · exact releaseChecks_kept (earlyFullCheck_kept (printNotice_kept (giveBack_kept h ‹_› ‹_› _) _ _))
    · exact h

theorem rollRecheck_kept (h : Kept r s) : Kept r (rollRecheck s) :=
  foldl_kept _ (fun n hk => returnToWaiting_kept hk n _) _ h

theorem holdEffects_kept (h : Kept r s) (id : Nat) : Kept r (holdEffects id s) := by
  unfold holdEffects
  refine editionNotice_kept ?_ _ _
  split
  · exact releaseChecks_kept h
  · exact foldl_kept _ (fun n hk => returnToWaiting_kept hk n _) _ h

end Sys2Proof.Machine
end

