-- ==== Sys2Proof/Laws/Lines.lean ====
section
/-! SUPPORT. What the shared operations do to the send list and to the output lines: a notice and a reply change the
control link alone; HALT stands at its level after `haltUpdate`; and every line stands at its level after `finish`. -/

namespace Sys2Proof.Machine

set_option Elab.async false

open Sys2Proof

variable {s : State}

/-! ## A notice and a reply change the control link alone -/

/-- A notice changes the control link alone. -/
theorem raise_control (b : NoticeBody) (s : State) : ∃ k, raise b s = { s with control := k } := by
  unfold raise
  split
  · exact ⟨_, rfl⟩
  · split <;> exact ⟨_, rfl⟩

/-- A flush changes the control link alone. -/
theorem flushKind_control (d : Bool) (kind : NoticeKind) (s : State) :
    ∃ k, flushKind d kind s = { s with control := k } := by
  unfold flushKind
  dsimp only
  split
  · exact ⟨_, rfl⟩
  · split <;> exact ⟨_, rfl⟩

/-- A reply changes the send list alone. -/
theorem reply_sendList (tag : Nat) (code : ReplyCode) (kind : Nat) (fields : ReplyFields) (s : State) :
    ∃ l, reply tag code kind fields s = { s with control := { s.control with sendList := l } } := by
  unfold reply
  dsimp only
  split <;> exact ⟨_, rfl⟩

/-- A reply is the last frame of the send list it leaves. -/
theorem reply_last (tag : Nat) (code : ReplyCode) (kind : Nat) (fields : ReplyFields) (s : State) :
    (reply tag code kind fields s).control.sendList.getLast? = some (.reply tag code kind fields) := by
  unfold reply
  dsimp only
  split <;> simp

/-- A reply joins a list that has room behind what it holds. -/
theorem reply_appends (tag : Nat) (code : ReplyCode) (kind : Nat) (fields : ReplyFields) {s : State}
    (h : s.control.sendList.length < 32) :
    (reply tag code kind fields s).control.sendList = s.control.sendList ++ [.reply tag code kind fields] := by
  have h' : s.control.sendList.length < Config.sendRoom := h
  simp [reply, h']

/-! ## HALT -/

/-- The level of HALT takes no account of the control link. -/
theorem haltLevel_control (k : ControlLink) (s : State) : State.haltLevel { s with control := k } = s.haltLevel := rfl

/-- The level of HALT takes no account of HALT itself and of the silence timer. -/
theorem haltLevel_silenceStart (l : Bool) (s : State) :
    (silenceStart (s.mapEngine fun e => { e with halt := l })).haltLevel = s.haltLevel := rfl

/-- After `haltUpdate`, HALT stands at the level the conditions give. -/
theorem haltUpdate_halt (s : State) : (haltUpdate s).engine.halt = (haltUpdate s).haltLevel := by
  unfold haltUpdate
  dsimp only
  split
  · exact Eq.symm ‹_›
  · unfold engineNotice
    obtain ⟨k, hk⟩ := raise_control
      (.engine (if s.haltLevel = true then .haltOn
        (silenceStart (s.mapEngine fun e => { e with halt := s.haltLevel })).haltCauses else .haltOff)
        (silenceStart (s.mapEngine fun e => { e with halt := s.haltLevel })).engine.state)
      (silenceStart (s.mapEngine fun e => { e with halt := s.haltLevel }))
    rw [hk]
    exact (haltLevel_silenceStart s.haltLevel s).symm

/-- The end of a flush leaves HALT and its level. -/
theorem endFlush_halt (s : State) :
    (endFlush s).engine.halt = s.engine.halt ∧ (endFlush s).haltLevel = s.haltLevel := by
  unfold endFlush
  split <;> exact ⟨rfl, rfl⟩

theorem settleLoop_halt (n : Nat) (s : State) : (settleLoop n s).engine.halt = (settleLoop n s).haltLevel := by
  induction n generalizing s with
  | zero => exact haltUpdate_halt s
  | succ n ih =>
    unfold settleLoop
    dsimp only
    split
    · exact ih _
    · split
      · exact ih _
      · rw [(endFlush_halt _).1, (endFlush_halt _).2]
        exact haltUpdate_halt s

/-! ## The panel -/

/-- The panel's refresh leaves what the lines are worked out from. -/
theorem refreshPanel_levels (s : State) :
    (refreshPanel s).haltLevel = s.haltLevel ∧ (refreshPanel s).attnLevel = s.attnLevel ∧
      ∀ l, (refreshPanel s).lampLit l = s.lampLit l := ⟨rfl, rfl, fun _ => rfl⟩

/-- Once HALT stands at its level, the panel's refresh puts every line at its own. -/
theorem refreshPanel_lines (h : s.engine.halt = s.haltLevel) : LinesFollow (refreshPanel s) :=
  ⟨h, rfl, fun i => by
    rw [(refreshPanel_levels s).2.2]
    simp [refreshPanel, State.mapControl]⟩

/-- After `finish` every line stands at the level that the conditions, the routings and the settings give. -/
theorem finish_lines (s : State) : LinesFollow (finish s) := refreshPanel_lines (settleLoop_halt 64 s)

/-- A change of the send list or the receive list alone leaves every line where it stands. -/
theorem LinesFollow.ofLists (h : LinesFollow s) (out : List ControlFrame) (inn : List Frame) :
    LinesFollow { s with control := { s.control with sendList := out, receiveList := inn } } :=
  ⟨h.halt, h.attn, h.lit⟩

/-- A reply leaves every line where it stands. -/
theorem LinesFollow.reply (h : LinesFollow s) (tag : Nat) (code : ReplyCode) (kind : Nat) (fields : ReplyFields) :
    LinesFollow (reply tag code kind fields s) := by
  obtain ⟨l, hl⟩ := reply_sendList tag code kind fields s
  rw [hl]
  exact h.ofLists l _

/-- The lamps blink in step with whole 125 ms: between two of them no lamp changes (R191). -/
theorem blink_same (b : Blink) {n m : Nat} (h : n / 125 = m / 125) : b.lights n = b.lights m := by
  cases b <;> simp only [Blink.lights]
  · congr 1
    ext
    omega
  · congr 1
    ext
    omega

end Sys2Proof.Machine
end

