-- ==== Sys2Proof/Laws/Repair.lean ====
section
/-! SUPPORT. Reservation repair (R64): it keeps what every operation keeps, and after it the committed total on its channel
is at most the usable supply (R61). -/

namespace Sys2Proof.Machine

set_option Elab.async false

open Sys2Proof

variable {r s : State}

/-! ## What leaves the ink alone -/

/-- The queue and every channel's record stay. -/
structure Aside (s t : State) : Prop where
  queue : t.queue = s.queue
  ink : t.ink = s.ink

theorem Aside.refl (s : State) : Aside s s := ⟨rfl, rfl⟩

theorem Aside.trans {t : State} (h : Aside r s) (g : Aside s t) : Aside r t :=
  ⟨g.queue.trans h.queue, g.ink.trans h.ink⟩

theorem raise_aside (b : NoticeBody) (s : State) : Aside s (raise b s) := by
  obtain ⟨k, hk⟩ := raise_control b s
  rw [hk]
  exact ⟨rfl, rfl⟩

theorem printNotice_aside (n : Nat) (news : PrintNews) (s : State) : Aside s (printNotice n news s) := by
  unfold printNotice
  split
  · exact raise_aside _ _
  · exact .refl s

theorem earlyFullCheck_aside (s : State) : Aside s (earlyFullCheck s) := by
  unfold earlyFullCheck
  split
  · split
    · exact Aside.trans (s := { s with cost := { s.cost with earlyFull := .sent } }) ⟨rfl, rfl⟩ (raise_aside _ _)
    · exact .refl s
  · exact ⟨rfl, rfl⟩

theorem haltUpdate_aside (s : State) : Aside s (haltUpdate s) := by
  unfold haltUpdate
  dsimp only
  split
  · exact .refl s
  · exact Aside.trans (s := silenceStart (s.mapEngine fun e => { e with halt := s.haltLevel })) ⟨rfl, rfl⟩
      (raise_aside _ _)

theorem visitWaiting_ink (s : State) (n : Nat) : (visitWaiting s n).ink = s.ink := by
  unfold visitWaiting
  split
  · rfl
  · dsimp only
    split
    · split
      · unfold releasePrint
        rw [(earlyFullCheck_aside _).ink, (printNotice_aside _ _ _).ink]
        exact State.mapEditionOf_ink s _ _
      · split
        · rfl
        · rw [(printNotice_aside _ _ _).ink]
          rfl
    · rfl

theorem releaseChecks_ink (s : State) : (releaseChecks s).ink = s.ink := by
  unfold releaseChecks
  generalize s.queue.prints.map (·.handle) = l
  induction l generalizing s with
  | nil => rfl
  | cons n l ih => rw [List.foldl_cons, ih, visitWaiting_ink]

theorem abandonIfPositioned_ink (n : Nat) (s : State) : (abandonIfPositioned n s).ink = s.ink := by
  unfold abandonIfPositioned
  split <;> rfl

theorem giveBack_ink (p : PrintRecord) (reason : HeldReason) (s : State) : (giveBack p reason s).ink = s.ink := by
  unfold giveBack
  dsimp only
  rw [State.unready_ink, State.mapPrint_ink]
  exact (State.mapEditionOf_ink _ _ _).trans (abandonIfPositioned_ink _ _)

theorem returnToWaiting_ink (n : Nat) (reason : HeldReason) (s : State) : (returnToWaiting n reason s).ink = s.ink := by
  unfold returnToWaiting
  split
  · rfl
  · split
    · rw [releaseChecks_ink, (earlyFullCheck_aside _).ink, (printNotice_aside _ _ _).ink, giveBack_ink]
    · rfl

theorem repairLoop_ink (n : Nat) (c : Chan) (s : State) : (repairLoop n c s).ink = s.ink := by
  induction n generalizing s with
  | zero => rfl
  | succ n ih =>
    unfold repairLoop
    split
    · rfl
    · split
      · rw [ih, returnToWaiting_ink]
      · unfold clipActive
        split <;> rfl

theorem usable_of_ink {t : State} (h : t.ink = s.ink) (c : Chan) : t.usable c = s.usable c := by
  simp only [State.usable, State.channel, h]

/-! ## The prints that hold a channel's ink -/

/-- A READY print that holds a reservation on the channel. -/
def holds (c : Chan) (p : PrintRecord) : Bool := p.state == .ready && decide (0 < p.reservation[c])

/-- How many there are. -/
def holders (c : Chan) (s : State) : Nat := (s.queue.prints.filter (holds c)).length

theorem holders_le (c : Chan) (s : State) : holders c s ≤ s.queue.prints.length := List.length_filter_le _ _

theorem holders_queue {t : State} (h : t.queue = s.queue) (c : Chan) : holders c t = holders c s := by
  simp only [holders, h]

/-- A change of records that keeps what they hold. -/
theorem holders_map (c : Chan) {t : State} (g : PrintRecord → PrintRecord) (hq : t.queue.prints = s.queue.prints.map g)
    (hg : ∀ p, (g p).state = p.state ∧ (g p).reservation = p.reservation) : holders c t = holders c s := by
  unfold holders
  rw [hq]
  exact length_filter_map _ g _ fun p _ => by simp only [holds, (hg p).1, (hg p).2]

/-- One print's record changes. -/
theorem holders_change {l : List PrintRecord} {n : Nat} {p q : PrintRecord} (w : WorkLaw s)
    (hf : s.findPrint n = some p) (hq : Replaced n p [q] s.queue.prints l) (c : Chan) :
    (l.filter (holds c)).length + (if holds c p then 1 else 0) = holders c s + if holds c q then 1 else 0 := by
  obtain ⟨a, b, he, -, h1, h2⟩ := split_print w.printsLaw.handles hf
  unfold holders
  rw [hq a b he h1 h2, he]
  simp only [List.filter_append, List.length_append, List.filter_cons, List.filter_nil]
  split <;> split <;> simp <;> omega

/-- While the committed total stands above the usable supply, a release check adds no holder (R64). -/
theorem visitWaiting_holders (w : WorkLaw s) (c : Chan) (hc : s.usable c < s.committed c) (n : Nat) :
    holders c (visitWaiting s n) ≤ holders c s := by
  unfold visitWaiting
  split
  · exact Nat.le_refl _
  · rename_i p hp
    have hn := findPrint_handle hp
    subst hn
    dsimp only
    split
    · rename_i hs
      split
      · rename_i hw
        have hz : s.wanted p c = 0 := by
          have := inkFits_of_release hw c
          simp only [State.inkFits, Bool.or_eq_true, decide_eq_true_eq] at this
          omega
        unfold releasePrint
        rw [holders_queue (earlyFullCheck_aside _).queue, holders_queue (printNotice_aside _ _ _).queue]
        have hr := replaced_mapAt (n := p.handle) (p := p)
          (fun q => { q with state := .ready, heldFor := [], reservation := Vector.ofFn fun c : Chan => s.wanted p c })
          s.queue.prints rfl
        have := holders_change w hp hr c
        simp only [holds, hz, hs, Fin.getElem_fin, Vector.getElem_ofFn, Fin.eta] at this
        simp at this
        unfold holders
        simp only [State.mapPrint_queue, State.mapEditionOf_queue]
        exact Nat.le_of_eq this
      · split
        · exact Nat.le_refl _
        · rw [holders_queue (printNotice_aside _ _ _).queue]
          refine Nat.le_of_eq (holders_map c (fun q => if q.handle == p.handle then { q with heldFor := _ } else q) rfl
            fun q => ?_)
          split <;> exact ⟨rfl, rfl⟩
    · exact Nat.le_refl _

/-- The channel has its law, or it stands above its supply with at most so many holders. -/
def Eases (c : Chan) (k : Nat) (s : State) : Prop :=
  SupplyBut (fun _ => True) s ∧ (s.committed c ≤ s.usable c ∨ holders c s ≤ k)

theorem visitWaiting_eases (w : WorkLaw s) {c : Chan} {k : Nat} (h : Eases c k s) (n : Nat) :
    Eases c k (visitWaiting s n) := by
  obtain ⟨l, h⟩ := h
  have hk := visitWaiting_kept (.refl s) n
  refine ⟨hk.supply w _ l, ?_⟩
  by_cases hc : s.committed c ≤ s.usable c
  · have := hk.supply w (fun d => d ≠ c) ⟨l.room, l.order, l.ready, fun d => by
      by_cases hd : d = c
      · exact .inr (hd ▸ hc)
      · exact .inl hd⟩
    exact .inl ((this.within c).resolve_left fun e => e rfl)
  · exact .inr ((visitWaiting_holders w c (Nat.lt_of_not_le hc) n).trans (h.resolve_left hc))

theorem releaseChecks_eases (w : WorkLaw s) {c : Chan} {k : Nat} (h : Eases c k s) : Eases c k (releaseChecks s) := by
  unfold releaseChecks
  generalize s.queue.prints.map (·.handle) = l
  induction l generalizing s with
  | nil => exact h
  | cons n l ih => exact ih ((visitWaiting_kept (.refl s) n).work w) (visitWaiting_eases w h n)

/-- A holder that goes back to WAITING holds no more. -/
theorem giveBack_holders (w : WorkLaw s) {c : Chan} {p : PrintRecord} (hp : s.findPrint p.handle = some p)
    (hh : holds c p = true) (reason : HeldReason) : holders c (giveBack p reason s) + 1 = holders c s := by
  have hu := abandonIfPositioned_kept (.refl s) p.handle
  obtain ⟨q, hq, hpq, hst, hres⟩ := abandonIfPositioned_find hp
  have hsame : holders c (abandonIfPositioned p.handle s) = holders c s := by
    unfold abandonIfPositioned
    split
    · refine holders_map c (fun q => if q.handle == p.handle then { q with span := none, snapshot := none } else q) rfl
        fun q => ?_
      split <;> exact ⟨rfl, rfl⟩
    · rfl
  rw [← hsame]
  unfold giveBack
  dsimp only
  generalize abandonIfPositioned p.handle s = u at hu hq hsame ⊢
  have hqh : holds c q = true := by rw [holds, hst, hres]; exact hh
  have hr := replaced_mapAt (n := p.handle) (p := q)
    (fun q => { q with state := .waiting, reservation := noReservation, heldFor := [reason] }) u.queue.prints
    (findPrint_handle hq)
  have := holders_change (hu.work w) hq hr c
  have hz : holds c { q with state := .waiting, reservation := noReservation, heldFor := [reason] } = false := rfl
  rw [hqh, hz] at this
  simp only [if_true, Bool.false_eq_true, if_false, Nat.add_zero] at this
  rw [← this]
  unfold holders mapAt
  simp [State.lowerInFlight, State.unready]

/-- A return of a holder leaves the channel with its law, or with fewer holders. -/
theorem returnToWaiting_eases (w : WorkLaw s) {c : Chan} (l : SupplyBut (fun _ => True) s) {p : PrintRecord}
    (hp : s.findPrint p.handle = some p) (hh : holds c p = true) (reason : HeldReason) {k : Nat} (hk : holders c s ≤ k + 1) :
    Eases c k (returnToWaiting p.handle reason s) := by
  have hs : p.state = .ready := by
    simp only [holds, Bool.and_eq_true, beq_iff_eq] at hh
    exact hh.1
  unfold returnToWaiting
  simp only [hp, hs, if_true]
  have hg := earlyFullCheck_kept (printNotice_kept (giveBack_kept (.refl s) hp hs reason) p.handle (.waiting [reason]))
  refine releaseChecks_eases (hg.work w) ⟨hg.supply w _ l, .inr ?_⟩
  rw [holders_queue (earlyFullCheck_aside _).queue, holders_queue (printNotice_aside _ _ _).queue]
  have := giveBack_holders w hp hh reason
  omega

/-- A READY print is in the ready order. -/
theorem mem_readyPrints (w : WorkLaw s) {x : Chan → Prop} (l : SupplyBut x s) {p : PrintRecord} :
    p ∈ s.readyPrints ↔ p ∈ s.queue.prints ∧ p.state = .ready := by
  unfold State.readyPrints
  rw [List.mem_filterMap]
  constructor
  · rintro ⟨h, hh, hp⟩
    obtain ⟨q, hq, rfl, hs⟩ := (l.ready h).mp hh
    rw [findPrint_of_mem w hq] at hp
    cases hp
    exact ⟨hq, hs⟩
  · rintro ⟨hp, hs⟩
    exact ⟨p.handle, (l.ready _).mpr ⟨p, hp, rfl, hs⟩, findPrint_of_mem w hp⟩

theorem youngestHolder_some (w : WorkLaw s) {x : Chan → Prop} (l : SupplyBut x s) {c : Chan} {p : PrintRecord}
    (h : s.youngestHolder c = some p) : s.findPrint p.handle = some p ∧ holds c p = true := by
  obtain ⟨hm, hh⟩ := List.mem_filter.mp (List.mem_of_getLast? h)
  obtain ⟨hp, hs⟩ := (mem_readyPrints w l).mp hm
  exact ⟨findPrint_of_mem w hp, by simpa [holds, hs] using hh⟩

theorem youngestHolder_none (w : WorkLaw s) {x : Chan → Prop} (l : SupplyBut x s) {c : Chan}
    (h : s.youngestHolder c = none) {p : PrintRecord} (hp : p ∈ s.queue.prints) (hs : p.state = .ready) :
    p.reservation[c] = 0 := by
  have hm := List.getLast?_eq_none_iff.mp h
  have := List.filter_eq_nil_iff.mp hm p ((mem_readyPrints w l).mpr ⟨hp, hs⟩)
  simpa using this

/-! ## The repair -/

theorem clipActive_kept (h : Kept r s) (c : Chan) : Kept r (clipActive c s) := by
  unfold clipActive
  split
  · exact h
  · refine mapPrint_kept h _ _ fun p _ => ⟨rfl, rfl, rfl, rfl, rfl, .inl rfl, .inl, fun d => ?_⟩
    simp only [Fin.getElem_fin, Vector.getElem_set]
    split
    · rename_i e
      simp only [e]
      exact Nat.min_le_left _ _
    · exact Nat.le_refl _

/-- With no READY holder the committed total is the ACTIVE print's reservation, and it is clipped to the supply. -/
theorem clipActive_within (w : WorkLaw s) {c : Chan}
    (hz : ∀ p ∈ s.queue.prints, p.state = .ready → p.reservation[c] = 0) :
    (clipActive c s).committed c ≤ s.usable c := by
  have zero : ∀ l : List PrintRecord, (∀ p ∈ l, p ∈ s.queue.prints ∧ p.state ≠ .active) → (l.map (share c)).sum = 0 := by
    intro l hl
    have : l.map (share c) = l.map fun _ => 0 := List.map_congr_left fun p hp => by
      unfold share
      split
      · rename_i h
        simp only [Bool.or_eq_true, beq_iff_eq] at h
        exact hz p (hl p hp).1 (h.resolve_right (hl p hp).2)
      · rfl
    rw [this]
    simp
  unfold clipActive
  split
  · rename_i ha
    rw [committed_shares, zero _ fun p hp => ⟨hp, by simpa using List.find?_eq_none.mp ha p hp⟩]
    exact Nat.zero_le _
  · rename_i p ha
    have hst : p.state = .active := by simpa using List.find?_some ha
    obtain ⟨a, b, he, -, h1, h2⟩ := split_print w.printsLaw.handles (findPrint_of_mem w (List.mem_of_find?_eq_some ha))
    have hone : ∀ q ∈ s.queue.prints, q.state = .active → q.handle = p.handle := by
      intro q hq hs
      have hl := w.printsLaw.active
      have m1 : q.handle ∈ (s.queue.prints.filter (·.state == .active)).map (·.handle) :=
        List.mem_map.mpr ⟨q, List.mem_filter.mpr ⟨hq, by simp [hs]⟩, rfl⟩
      have m2 : p.handle ∈ (s.queue.prints.filter (·.state == .active)).map (·.handle) :=
        List.mem_map.mpr ⟨p, List.mem_filter.mpr ⟨List.mem_of_find?_eq_some ha, by simp [hst]⟩, rfl⟩
      rw [hl] at m1 m2
      cases ho : s.store.openPrint with
      | none => rw [ho] at m1; cases m1
      | some m =>
        simp only [ho, Option.map_some, Option.toList_some, List.mem_singleton] at m1 m2
        omega
    have hr := replaced_mapAt (n := p.handle) (p := p)
      (fun q => { q with reservation := q.reservation.set c (min q.reservation[c] (s.usable c)) }) s.queue.prints rfl
      a b he h1 h2
    have ha0 := zero a fun q hq => ⟨by rw [he]; simp [hq], fun e => h1 q hq (hone q (by rw [he]; simp [hq]) e)⟩
    have hb0 := zero b fun q hq => ⟨by rw [he]; simp [hq], fun e => h2 q hq (hone q (by rw [he]; simp [hq]) e)⟩
    rw [committed_shares]
    simp only [State.mapPrint_queue]
    change ((mapAt _ _ _).map (share c)).sum ≤ _
    rw [hr]
    simp only [List.map_append, List.map_cons, List.map_nil, List.sum_append, List.sum_cons, List.sum_nil, ha0, hb0]
    simp only [share, hst]
    simp

theorem repairLoop_kept (n : Nat) (h : Kept r s) (c : Chan) : Kept r (repairLoop n c s) := by
  induction n generalizing s with
  | zero => exact h
  | succ n ih =>
    unfold repairLoop
    split
    · exact h
    · split
      · exact ih (returnToWaiting_kept h _ _)
      · exact clipActive_kept h _

theorem repair_kept (h : Kept r s) (c : Chan) : Kept r (repair c s) := repairLoop_kept _ h c

theorem repairLoop_within (n : Nat) (w : WorkLaw s) (c : Chan) (l : SupplyBut (fun _ => True) s)
    (hn : holders c s < n ∨ s.committed c ≤ s.usable c) (h0 : 0 < n) :
    (repairLoop n c s).committed c ≤ s.usable c := by
  induction n generalizing s with
  | zero => cases h0
  | succ n ih =>
    unfold repairLoop
    split
    · assumption
    · rename_i hc
      have hn := hn.resolve_right hc
      split
      · rename_i p hp
        obtain ⟨hf, hh⟩ := youngestHolder_some w l hp
        have hpos : 0 < holders c s := by
          unfold holders
          exact List.length_pos_iff.mpr (List.ne_nil_of_mem (List.mem_filter.mpr ⟨findPrint_mem hf, hh⟩))
        have he := returnToWaiting_eases (k := n - 1) w l hf hh (.ink c) (by omega)
        have hk := returnToWaiting_kept (.refl s) p.handle (.ink c)
        rw [← usable_of_ink (returnToWaiting_ink p.handle (.ink c) s)]
        exact ih (hk.work w) he.1 (he.2.symm.imp_left (by omega)) (by omega)
      · rename_i hp
        exact clipActive_within w fun p hm hs => youngestHolder_none w l hp hm hs

/-- After a repair its channel stands aside no more. -/
theorem repair_supply (w : WorkLaw s) {x : Chan → Prop} {c : Chan} (l : SupplyBut (fun d => x d ∨ d = c) s) :
    SupplyBut x (repair c s) := by
  have h := (repair_kept (.refl s) c).supply w _ l
  refine ⟨h.room, h.order, h.ready, fun d => ?_⟩
  rcases h.within d with (hd | rfl) | hd
  · exact .inl hd
  · right
    have hl : SupplyBut (fun _ => True) s := l.mono fun _ _ => trivial
    have hh := Nat.lt_of_le_of_lt (holders_le d s) (Nat.lt_succ_of_le l.room)
    have hw := repairLoop_within (Config.queueRoom + 1) w d hl (.inl hh) (by decide)
    rw [usable_of_ink (t := repair d s) (repairLoop_ink _ _ s)]
    exact hw
  · exact .inr hd

end Sys2Proof.Machine
end

