-- ==== Sys2Proof/Laws/KeptInk.lean ====
section
/-! SUPPORT. What the operations of Machine/Ink.lean keep: one lemma each. An operation that may lower a channel's usable
supply is followed by `handOn`, which repairs it: until then it keeps everything but that channel's law, and its lemma
says so with `Pour`. -/

namespace Sys2Proof.Machine

set_option Elab.async false

open Sys2Proof

variable {r s : State}

/-! ## What leaves the supplies alone, and what changes one of them -/

/-- The queue, every level and every cartridge volume stay. -/
structure Still (s t : State) : Prop where
  queue : t.queue = s.queue
  level : ∀ d, (t.channel d).level = (s.channel d).level
  volume : ∀ d, (t.channel d).cartridgeVolume = (s.channel d).cartridgeVolume

theorem Still.refl (s : State) : Still s s := ⟨rfl, fun _ => rfl, fun _ => rfl⟩

theorem Still.trans {r s t : State} (h : Still r s) (g : Still s t) : Still r t :=
  ⟨g.queue.trans h.queue, fun d => (g.level d).trans (h.level d), fun d => (g.volume d).trans (h.volume d)⟩

theorem Still.usable {s t : State} (h : Still s t) (d : Chan) : t.usable d = s.usable d := by
  simp only [State.usable, Channel.usable, h.level, h.volume]

theorem Aside.still {s t : State} (h : Aside s t) : Still s t :=
  ⟨h.queue, fun _ => by rw [State.channel, h.ink]; rfl, fun _ => by rw [State.channel, h.ink]; rfl⟩

/-- One channel's record, with its level and cartridge volume kept. -/
theorem mapChannel_still (s : State) (c : Chan) (f : Channel → Channel)
    (hf : ∀ ch, (f ch).level = ch.level ∧ (f ch).cartridgeVolume = ch.cartridgeVolume := by
      exact fun _ => ⟨rfl, rfl⟩) : Still s (s.mapChannel c f) := by
  refine ⟨rfl, fun d => ?_, fun d => ?_⟩ <;> rw [mapChannel_channel] <;> split
  · rename_i hd; rw [(hf _).1, hd]
  · rfl
  · rename_i hd; rw [(hf _).2, hd]
  · rfl

/-- What an operation on one channel's ink keeps: everything but that channel's usable supply, with the queue left as it
is. -/
structure Pour (c : Chan) (s t : State) : Prop extends Core s t where
  queue : t.queue = s.queue
  others : ∀ d, d ≠ c → t.usable d = s.usable d

variable {c : Chan}

theorem Pour.refl (c : Chan) (s : State) : Pour c s s := ⟨.refl s, rfl, fun _ _ => rfl⟩

theorem Pour.trans {r s t : State} (h : Pour c r s) (g : Pour c s t) : Pour c r t :=
  ⟨h.toCore.trans g.toCore, g.queue.trans h.queue, fun d hd => (g.others d hd).trans (h.others d hd)⟩

/-- An operation that leaves the queue and the supplies alone. -/
theorem Pour.still {r s t : State} (h : Pour c r s) (g : Kept s t) (k : Still s t) : Pour c r t :=
  h.trans ⟨g.core, k.queue, fun d _ => k.usable d⟩

/-- A channel's record, changed in a way that keeps its colour code and its laws. -/
theorem mapChannel_pour (h : Pour c r s) (f : Channel → Channel)
    (hc : (f (s.channel c)).colourCode = (s.channel c).colourCode)
    (hp : ChannelLaw (s.channel c) → ChannelLaw (f (s.channel c))) : Pour c r (s.mapChannel c f) := by
  refine h.trans ⟨.same (mapChannel_held (.refl s) c f hc hp), rfl, fun d hd => ?_⟩
  rw [State.usable, mapChannel_channel, if_neg hd]
  rfl

/-- A channel's slot and cartridge, changed. -/
theorem mapSlot_pour (h : Pour c r s) (f : Channel → Channel)
    (hf : ∀ ch, (f ch).colourCode = ch.colourCode ∧ (f ch).level = ch.level ∧ (f ch).parcels = ch.parcels ∧
      (f ch).job = ch.job ∧ (f ch).pumpRun = ch.pumpRun := by exact fun _ => ⟨rfl, rfl, rfl, rfl, rfl⟩) :
    Pour c r (s.mapChannel c f) := by
  obtain ⟨hc, hl, hp, hj, hr⟩ := hf (s.channel c)
  refine mapChannel_pour h f hc fun l => ⟨by rw [hl, hp]; exact l.parcels, ⟨?_, ?_⟩⟩
  · rw [hl, hp, hj, hr]; exact l.pump.fits
  · rw [hj, hr]; exact l.pump.still

/-- What an operation keeps while no print may hold ink (RESET after its passes, power-on): everything but the laws of the
channels. -/
structure Loose (s t : State) : Prop extends Core s t where
  supply : WorkLaw s → SupplyBut (fun _ => True) s → SupplyBut (fun _ => True) t

theorem Loose.trans {r s t : State} (h : Loose r s) (g : Loose s t) : Loose r t :=
  ⟨h.toCore.trans g.toCore, fun w l => g.supply (h.work w) (h.supply w l)⟩

theorem Kept.loose {s t : State} (h : Kept s t) : Loose s t := ⟨h.core, fun w l => h.supply w _ l⟩

theorem Pour.loose {s t : State} (h : Pour c s t) : Loose s t :=
  ⟨h.toCore, fun _ l => l.same (by rw [h.queue]) (by rw [h.queue]) fun _ => .inl trivial⟩

/-- An operation made for each member of a list. -/
theorem foldl_loose {α : Type} (f : State → α → State) (hf : ∀ s a, Loose s (f s a)) (l : List α) (s : State) :
    Loose s (l.foldl f s) := by
  induction l generalizing s with
  | nil => exact (Kept.refl s).loose
  | cons a l ih => exact (hf s a).trans (ih _)

/-- Prints that have been imaged hold no ink. -/
theorem supply_of_imaged {x y : Chan → Prop} (hi : ∀ n, StageAt 2 n s) (l : SupplyBut y s) : SupplyBut x s := by
  refine ⟨l.room, l.order, l.ready, fun d => .inr ?_⟩
  have hz : s.queue.prints.map (share d) = s.queue.prints.map fun _ => 0 := List.map_congr_left fun p hp => by
    have := hi p.handle p hp rfl
    unfold share
    cases hs : p.state <;> simp [PrintRecord.stage, hs] at this <;> simp
  rw [committed_shares, hz]
  simp

/-- Where all prints have been imaged, every channel has its law at the end. -/
theorem Loose.imaged {s t : State} (h : Loose s t) (w : WorkLaw s) (hi : ∀ n, StageAt 2 n s) {x y : Chan → Prop}
    (l : SupplyBut y s) : SupplyBut x t :=
  supply_of_imaged (fun n => h.forward w n 2 (hi n)) (h.supply w (l.mono fun _ _ => trivial))

/-! ## Handing on -/

/-- What a channel's event hands on restores the law of its channel: a fall of its usable supply is repaired (R61, R63). -/
theorem handOn_kept {t : State} (h : Pour c s t) : Kept s (handOn c s t) := by
  have hr : Kept s (if t.usable c < s.usable c then repair c t else t) := by
    have core : Core s (if t.usable c < s.usable c then repair c t else t) := by
      split
      · exact h.toCore.trans (repair_kept (.refl t) c).core
      · exact h.toCore
    refine core.kept fun w x l => ?_
    have hq : ∀ d, t.committed d = s.committed d := fun d => by rw [committed_shares, committed_shares, h.queue]
    have hl : SupplyBut (fun d => x d ∨ d = c) t := by
      refine (l.mono fun _ => Or.inl).same (by rw [h.queue]) (by rw [h.queue]) fun d => ?_
      by_cases hd : d = c
      · exact .inl (.inr hd)
      · exact .inr (Nat.le_of_eq (h.others d hd).symm)
    split
    · exact repair_supply (h.work w) hl
    · rename_i hu
      refine ⟨hl.room, hl.order, hl.ready, fun d => ?_⟩
      rcases hl.within d with (hd | rfl) | hd
      · exact .inl hd
      · exact (l.within d).imp_right fun hs => by rw [hq]; omega
      · exact .inr hd
  unfold handOn
  dsimp only
  generalize (if t.usable c < s.usable c then repair c t else t) = u at hr ⊢
  split
  · exact hr
  · exact releaseChecks_kept hr

/-! ## Indications -/

theorem updateIndication_kept (h : Kept r s) (c : Chan) : Kept r (updateIndication c s) := by
  unfold updateIndication
  dsimp only
  split
  · exact h
  · exact haltUpdate_kept (inkNotice_kept (mapChannel_kept' h c _) c)

theorem inkNotice_still (c : Chan) (s : State) : Still s (inkNotice c s) :=
  (raise_aside _ s).still.trans (mapChannel_still _ c fun ch => { ch with installed := false })

theorem cartridgeNotice_still (c : Chan) (s : State) : Still s (cartridgeNotice c s) := (raise_aside _ s).still

theorem haltUpdate_still (s : State) : Still s (haltUpdate s) := (haltUpdate_aside s).still

theorem updateIndication_still (c : Chan) (s : State) : Still s (updateIndication c s) := by
  unfold updateIndication
  dsimp only
  split
  · exact .refl s
  · exact (mapChannel_still s c _).trans ((inkNotice_still c _).trans (haltUpdate_still _))

theorem updateIndication_pour (h : Pour c r s) : Pour c r (updateIndication c s) :=
  h.still (updateIndication_kept (.refl s) c) (updateIndication_still c s)

theorem cartridgeNotice_pour (h : Pour c r s) : Pour c r (cartridgeNotice c s) :=
  h.still (cartridgeNotice_kept (.refl s) c) (cartridgeNotice_still c s)

theorem saveInk_pour (h : Pour c r s) : Pour c r (saveInk s) := h.still (saveInk_kept (.refl s)) (Aside.still ⟨rfl, rfl⟩)

theorem setRefillMarker_pour (h : Pour c r s) (d : Chan) (b : Bool) : Pour c r (setRefillMarker d b s) :=
  h.still (setRefillMarker_kept (.refl s) d b) (Aside.still ⟨rfl, rfl⟩)

/-! ## The memory table and the tag bus -/

theorem writeEntry_length {table : List MemoryEntry} (e : MemoryEntry) (h : table.length ≤ 32) :
    (writeEntry table e).length ≤ 32 := by
  unfold writeEntry
  split
  · simpa using h
  · split
    · simp only [Config.memoryRoom] at *
      simp
      omega
    · simpa using h

theorem memoryWrite_kept (h : Kept r s) (serial remaining : Nat) : Kept r (memoryWrite serial remaining s) :=
  h.ofInk _ (fun _ => rfl) (fun _ => id) (writeEntry_length _)

theorem queueTransfer_kept (h : Kept r s) (t : TagTransfer) : Kept r (queueTransfer t s) :=
  h.ofInk _ (fun _ => rfl) (fun _ => id) id

theorem beginTransfer_kept (h : Kept r s) (q : List TagTransfer) : Kept r (beginTransfer q s) :=
  h.ofInk _ (fun _ => rfl) (fun _ => id) id

theorem memoryWrite_pour (h : Pour c r s) (serial remaining : Nat) : Pour c r (memoryWrite serial remaining s) :=
  h.still (memoryWrite_kept (.refl s) _ _) ⟨rfl, fun _ => rfl, fun _ => rfl⟩

theorem queueTransfer_pour (h : Pour c r s) (t : TagTransfer) : Pour c r (queueTransfer t s) :=
  h.still (queueTransfer_kept (.refl s) _) ⟨rfl, fun _ => rfl, fun _ => rfl⟩

theorem nextTransfer_kept (h : Kept r s) : Kept r (nextTransfer s) := beginTransfer_kept h _

theorem dropTransfers_kept (h : Kept r s) (c : Chan) : Kept r (dropTransfers c s) := by
  unfold dropTransfers
  dsimp only
  split
  · exact beginTransfer_kept h _
  · exact h.ofInk _ (fun _ => rfl) (fun _ => id) id

theorem dropTransfers_still (c : Chan) (s : State) : Still s (dropTransfers c s) := by
  unfold dropTransfers
  dsimp only
  split <;> exact ⟨rfl, fun _ => rfl, fun _ => rfl⟩

/-! ## Refills -/

/-- A pump run toward a target that fits above the level, with a place for the refill's parcel. -/
theorem runPump_kept (h : Kept r s) (c : Chan) (job : RefillJob)
    (hj : (s.channel c).level ≤ 40000000 →
      (s.channel c).level + job.target ≤ 40000000 ∧ (job.parcelIn = true ∨ (s.channel c).parcels.length < 24)) :
    Kept r (runPump c job s) := by
  unfold runPump
  refine mapChannel_kept (setRefillMarker_kept h _ _) c _ (by rfl) fun l => ⟨l.parcels, ⟨?_, ?_⟩⟩
  · intro j e _
    cases e
    exact hj l.parcels.capacity
  · intro j _ e
    cases e

theorem startRefill_kept (h : Kept r s) (c : Chan) (hp : (s.channel c).parcels.length < 24) :
    Kept r (startRefill c s) := by
  unfold startRefill
  dsimp only
  split
  · exact h
  · refine runPump_kept h c _ fun hl => ⟨?_, .inr hp⟩
    simp only [Config.tankCapacity]
    omega

theorem setRefill_kept (h : Kept r s) (c : Chan) (state : RefillState) : Kept r (setRefill c state s) :=
  mapChannel_kept h c _ rfl fun l =>
    ⟨l.parcels, ⟨fun j e _ => by simp at e, fun j e _ => by simp at e⟩⟩

theorem reconsider_kept (h : Kept r s) (c : Chan) : Kept r (reconsider c s) := by
  unfold reconsider
  dsimp only
  split
  · split
    · exact setRefill_kept h c _
    · split
      · exact setRefill_kept h c _
      · rename_i hs
        split
        · exact setRefill_kept h c _
        · exact startRefill_kept h c (by
            simp only [Config.parcelRoom, not_or, Nat.not_le] at hs
            exact hs.2)
  · exact h

theorem runPump_still (c : Chan) (job : RefillJob) (s : State) : Still s (runPump c job s) :=
  (Aside.still (s := s) (t := setRefillMarker c true s) ⟨rfl, rfl⟩).trans (mapChannel_still _ c fun ch =>
    { ch with refill := .pumping, pumpRun := true
              job := some { job with pulses := 0, deadline := some (s.clock.now + refillTime job.target) } })

theorem setRefill_still (c : Chan) (state : RefillState) (s : State) : Still s (setRefill c state s) :=
  mapChannel_still s c _

theorem reconsider_still (c : Chan) (s : State) : Still s (reconsider c s) := by
  unfold reconsider
  dsimp only
  split
  · split
    · exact setRefill_still c _ s
    · split
      · exact setRefill_still c _ s
      · split
        · exact setRefill_still c _ s
        · unfold startRefill
          dsimp only
          split
          · exact .refl s
          · exact runPump_still c _ s
  · exact .refl s

theorem reconsider_pour (h : Pour c r s) : Pour c r (reconsider c s) :=
  h.still (reconsider_kept (.refl s) c) (reconsider_still c s)

theorem setRefill_pour (h : Pour c r s) (state : RefillState) : Pour c r (setRefill c state s) :=
  h.still (setRefill_kept (.refl s) c state) (setRefill_still c state s)

/-- A volume above zero that joins a parcel queue is added to its sum, where it has its place. -/
theorem addVolume_law (j : RefillJob) {v level : Nat} {parcels : List Parcel} (hv : 0 < v)
    (hc : level + v ≤ 40000000) (hr : j.parcelIn = true ∨ parcels.length < 24) (h : ParcelLaw level parcels) :
    ParcelLaw (level + v) (addVolume j v parcels) := by
  have happ : parcels.length < 24 → ParcelLaw (level + v) (parcels ++ [⟨v, j.price, j.lot, j.serial⟩]) := by
    intro hl
    refine ⟨by simp [h.sum], fun p hp => ?_, hc, by simp; omega⟩
    rcases List.mem_append.mp hp with hp | hp
    · exact h.filled p hp
    · rw [List.mem_singleton.mp hp]; exact hv
  unfold addVolume
  split
  · split
    · rename_i p hp
      have hl : parcels = parcels.dropLast ++ [p] := by
        obtain ⟨ys, rfl⟩ := List.getLast?_eq_some_iff.mp hp
        simp
      have hsum := h.sum
      have hroom := h.room
      rw [hl] at hsum hroom
      refine ⟨by simp at hsum ⊢; omega, fun q hq => ?_, hc, by simpa using hroom⟩
      rcases List.mem_append.mp hq with hq | hq
      · exact h.filled q (List.mem_of_mem_dropLast hq)
      · rw [List.mem_singleton.mp hq]
        exact Nat.lt_of_lt_of_le hv (Nat.le_add_left _ _)
    · rename_i hp
      have he := List.getLast?_eq_none_iff.mp hp
      subst he
      exact happ (by decide)
  · rename_i hp
    exact happ (hr.resolve_left hp)

/-- A taking of the channel's own refill keeps the channel's laws. -/
theorem takeIntoTank_law {j : RefillJob} {ch : Channel} (hj : ch.job = some j) (h : ChannelLaw ch) :
    ChannelLaw (takeIntoTank j ch) := by
  unfold takeIntoTank
  dsimp only
  split
  · exact ⟨h.parcels, ⟨fun _ _ e => by simp at e, fun k e _ => by cases e; rfl⟩⟩
  · rename_i hv
    have hrun : ch.pumpRun = true := by
      by_contra e
      have hp := h.pump.still j hj (by simpa using e)
      simp [RefillJob.pumped, hp] at hv
    obtain ⟨hf, hr⟩ := h.pump.fits j hj hrun
    have hle : j.pumped ≤ j.target := Nat.min_le_right _ _
    exact ⟨addVolume_law j (Nat.pos_of_ne_zero hv) (by omega) hr h.parcels,
      ⟨fun _ _ e => by simp at e, fun k e _ => by cases e; rfl⟩⟩

theorem takeIntoTank_colour (j : RefillJob) (ch : Channel) : (takeIntoTank j ch).colourCode = ch.colourCode := by
  unfold takeIntoTank
  dsimp only
  split <;> rfl

theorem makeSpent_pour (h : Pour c r s) : Pour c r (makeSpent c s) := by
  unfold makeSpent
  split
  · exact h
  · exact cartridgeNotice_pour (mapSlot_pour h _)

theorem setRemaining_pour (h : Pour c r s) (n : Nat) : Pour c r (setRemaining c n s) := by
  unfold setRemaining
  split
  · exact h
  · exact queueTransfer_pour (memoryWrite_pour (mapSlot_pour h _) _ _) _

theorem take_pour (h : Pour c r s) : Pour c r (take c s) := by
  unfold take
  split
  · rename_i j k hj _
    have ht : Pour c r (saveInk (setRefillMarker c false (setRemaining c (k.remaining - j.pumped)
        (s.mapChannel c (takeIntoTank j))))) :=
      saveInk_pour (setRefillMarker_pour (setRemaining_pour
        (mapChannel_pour h (takeIntoTank j) (takeIntoTank_colour _ _) (takeIntoTank_law hj)) _) c false)
    dsimp only
    split
    · exact makeSpent_pour ht
    · exact ht
  · exact h

theorem installedNotice_kept (h : Kept r s) (c : Chan) : Kept r (installedNotice c s) := by
  unfold installedNotice
  split
  · exact inkNotice_kept h c
  · exact h

theorem endRefill_kept (h : Kept r s) (c : Chan) : Kept r (endRefill c s) :=
  reconsider_kept (installedNotice_kept (setRefill_kept h c _) c) c

theorem endRefill_still (c : Chan) (s : State) : Still s (endRefill c s) := by
  refine (setRefill_still c .idle s).trans (Still.trans ?_ (reconsider_still c _))
  unfold installedNotice
  split
  · exact inkNotice_still c _
  · exact .refl _

theorem endRefill_pour (h : Pour c r s) : Pour c r (endRefill c s) :=
  h.still (endRefill_kept (.refl s) c) (endRefill_still c s)

theorem completeRefill_kept (h : Kept r s) (c : Chan) : Kept r (completeRefill c s) :=
  h.trans (handOn_kept (endRefill_pour (updateIndication_pour (take_pour (.refl c s)))))

theorem resumeRefill_kept (h : Kept r s) (c : Chan) : Kept r (resumeRefill c s) := by
  unfold resumeRefill
  dsimp only
  split
  · split
    · exact endRefill_kept h c
    · split
      · rename_i hp
        refine runPump_kept h c _ fun hl => ⟨?_, hp⟩
        simp only [resumeTarget, Config.tankCapacity]
        omega
      · exact endRefill_kept h c
  · exact h

theorem resumeRefill_still (c : Chan) (s : State) : Still s (resumeRefill c s) := by
  unfold resumeRefill
  dsimp only
  split
  · split
    · exact endRefill_still c s
    · split
      · exact runPump_still c _ s
      · exact endRefill_still c s
  · exact .refl s

theorem suspendRefill_kept (h : Kept r s) (c : Chan) : Kept r (suspendRefill c s) := by
  unfold suspendRefill
  dsimp only
  split
  · exact h.trans (handOn_kept (updateIndication_pour (mapSlot_pour (take_pour (.refl c s)) _)))
  · exact h

theorem inkPrintBegins_kept (h : Kept r s) : Kept r (inkPrintBegins s) :=
  foldl_kept _ (fun c hk => reconsider_kept (suspendRefill_kept hk c) c) _ h

theorem inkPrintEnds_kept (h : Kept r s) : Kept r (inkPrintEnds s) := by
  refine foldl_kept _ (fun c hk => ?_) _ h
  split
  · exact resumeRefill_kept hk c
  · exact reconsider_kept hk c

/-! ## Judging a cartridge -/

theorem recordJudged_kept (h : Kept r s) (c : Chan) (k : Cartridge) (slot : SlotState) :
    Kept r (recordJudged c k slot s) := by
  unfold recordJudged
  split
  · dsimp only
    split
    · exact memoryWrite_kept h _ _
    · exact queueTransfer_kept (memoryWrite_kept h _ _) _
  · exact memoryWrite_kept h _ _
  · exact h

theorem recordJudged_still (c : Chan) (k : Cartridge) (slot : SlotState) (s : State) :
    Still s (recordJudged c k slot s) := by
  unfold recordJudged
  split
  · dsimp only
    split <;> exact ⟨rfl, fun _ => rfl, fun _ => rfl⟩
  · exact ⟨rfl, fun _ => rfl, fun _ => rfl⟩
  · exact .refl s

theorem announceSlot_still (c : Chan) (before s : State) : Still s (announceSlot c before s) := by
  unfold announceSlot
  split
  · exact mapChannel_still s c _
  · exact cartridgeNotice_still c s

theorem saveJudged_still (slot : SlotState) (s : State) : Still s (saveJudged slot s) := by
  unfold saveJudged
  split
  · exact Aside.still ⟨rfl, rfl⟩
  · exact Aside.still ⟨rfl, rfl⟩
  · exact .refl s

theorem announceSlot_kept (h : Kept r s) (c : Chan) (before : State) : Kept r (announceSlot c before s) := by
  unfold announceSlot
  split
  · exact mapChannel_kept' h c _
  · exact cartridgeNotice_kept h c

theorem saveJudged_kept (h : Kept r s) (slot : SlotState) : Kept r (saveJudged slot s) := by
  unfold saveJudged
  split
  · exact saveInk_kept h
  · exact saveInk_kept h
  · exact h

theorem applyJudgement_kept (h : Kept r s) (i : Bool) (c : Chan) (k : Cartridge) (slot : SlotState) :
    Kept r (applyJudgement i c k slot s) := by
  unfold applyJudgement
  have hm := mapSlot_pour (.refl c s) fun ch => { ch with slot := slot, cartridge := some k }
  have hj := reconsider_pour (hm.still (recordJudged_kept (.refl _) c k slot) (recordJudged_still c k slot _))
  refine h.trans (handOn_kept (updateIndication_pour (Pour.still ?_ (saveJudged_kept (.refl _) slot)
    (saveJudged_still slot _))))
  split
  · exact hj.still (announceSlot_kept (.refl _) c _) (announceSlot_still c _ _)
  · exact cartridgeNotice_pour hj

theorem refuseTag_kept (h : Kept r s) (c : Chan) : Kept r (refuseTag c s) :=
  h.trans (handOn_kept (updateIndication_pour (cartridgeNotice_pour (reconsider_pour (mapSlot_pour (.refl c s) _)))))

theorem readOutcome_kept (h : Kept r s) (c : Chan) (result : Option TagData) : Kept r (readOutcome c result s) := by
  unfold readOutcome
  split
  · exact refuseTag_kept h c
  · split
    · exact applyJudgement_kept h _ c _ _
    · exact refuseTag_kept h c

theorem firstReadOver_kept (h : Kept r s) (c : Chan) : Kept r (firstReadOver c s) := by
  unfold firstReadOver
  split
  · dsimp only
    split
    · exact haltUpdate_kept (h.ofStartUp _)
    · exact h.ofStartUp _
  · exact h

theorem emptySlot_pour (h : Pour c r s) : Pour c r (emptySlot c s) :=
  mapSlot_pour (h.still (dropTransfers_kept (.refl s) c) (dropTransfers_still c s)) _

end Sys2Proof.Machine
end

