-- ==== Sys2Proof/Laws/KeptBlocks.lean ====
section
/-! SUPPORT. What the operations of the meter, the cost unit, the print queue, the colour check unit and the transport
keep (Machine/Meter.lean to Machine/Transport.lean): one lemma each, up to `finish`. -/

namespace Sys2Proof.Machine

set_option Elab.async false

open Sys2Proof

variable {r s : State}

/-! ## Metering -/

/-- A draw leaves what it did not take, and no parcel empty. -/
theorem drawFrom_law (n : Nat) {parcels : List Parcel} (h : ∀ p ∈ parcels, 0 < p.volume) :
    ((drawFrom n parcels).parcels.map (·.volume)).sum + (n - (drawFrom n parcels).excess) =
        (parcels.map (·.volume)).sum ∧
      (drawFrom n parcels).excess ≤ n ∧ ∀ p ∈ (drawFrom n parcels).parcels, 0 < p.volume := by
  induction parcels generalizing n with
  | nil => simp [drawFrom]
  | cons q ps ih =>
    have hps : ∀ p ∈ ps, 0 < p.volume := fun p hp => h p (List.mem_cons_of_mem _ hp)
    unfold drawFrom
    split
    · rename_i hn
      subst hn
      simpa using h
    · split
      · refine ⟨by simp; omega, Nat.zero_le _, fun p hp => ?_⟩
        rcases List.mem_cons.mp hp with rfl | hp
        · simp; omega
        · exact hps p hp
      · obtain ⟨h1, h2, h3⟩ := ih (n - q.volume) hps
        refine ⟨?_, ?_, h3⟩
        · simp only [List.map_cons, List.sum_cons]
          omega
        · dsimp only
          omega

theorem drawFrom_length (n : Nat) (parcels : List Parcel) : (drawFrom n parcels).parcels.length ≤ parcels.length := by
  induction parcels generalizing n with
  | nil => simp [drawFrom]
  | cons q ps ih =>
    unfold drawFrom
    split
    · simp
    · split
      · simp
      · exact (ih _).trans (Nat.le_succ _)

theorem afterDraw_law {ch : Channel} (n : Nat) (h : ChannelLaw ch) : ChannelLaw (ch.afterDraw n) := by
  obtain ⟨h1, h2, h3⟩ := drawFrom_law n h.parcels.filled
  have hs := h.parcels.sum
  have hc := h.parcels.capacity
  have hl := drawFrom_length n ch.parcels
  refine ⟨⟨?_, h3, ?_, hl.trans h.parcels.room⟩, ⟨fun j hj hr => ?_, fun j hj hr => ?_⟩⟩
  · simp only [Channel.afterDraw]; omega
  · simp only [Channel.afterDraw]; omega
  · simp only [Channel.afterDraw, Option.map_eq_some_iff] at hj
    obtain ⟨k, hk, rfl⟩ := hj
    obtain ⟨hf, hp⟩ := h.pump.fits k hk hr
    refine ⟨by simp only [Channel.afterDraw]; omega, ?_⟩
    simp only [Channel.afterDraw, Bool.and_eq_true, Bool.not_eq_true', List.isEmpty_eq_false_iff]
    rcases hp with hp | hp
    · by_cases he : (drawFrom n ch.parcels).parcels = []
      · exact .inr (by rw [he]; decide)
      · exact .inl ⟨hp, he⟩
    · exact .inr (Nat.lt_of_le_of_lt hl hp)
  · simp only [Channel.afterDraw, Option.map_eq_some_iff] at hj
    obtain ⟨k, hk, rfl⟩ := hj
    exact h.pump.still k hk hr

/-- A charge raises no reservation. -/
theorem chargePrint_quiet (c : Chan) (ch : Channel) (debit : Nat) (p : PrintRecord) :
    Quiet p (chargePrint c ch debit p) := by
  refine ⟨rfl, rfl, rfl, rfl, rfl, .inl rfl, .inl, fun d => ?_⟩
  simp only [chargePrint, Fin.getElem_fin, Vector.getElem_set]
  split
  · rename_i e
    simp only [e]
    exact Nat.sub_le _ _
  · exact Nat.le_refl _

/-- What the draws of a swath keep, from the state before them: a channel whose usable supply has fallen stands aside until
its draw is handed on. -/
structure Draws (b s : State) : Prop extends Core b s where
  supply : WorkLaw b → ∀ x, SupplyBut x b → SupplyBut (fun d => x d ∨ s.usable d < b.usable d) s
  level : ∀ d, (s.channel d).level ≤ (b.channel d).level
  volume : ∀ d, (s.channel d).cartridgeVolume = (b.channel d).cartridgeVolume

theorem Draws.refl (s : State) : Draws s s :=
  ⟨.refl s, fun _ _ l => l.mono fun _ => .inl, fun _ => Nat.le_refl _, fun _ => rfl⟩

theorem Draws.usable_le {b s : State} (h : Draws b s) (d : Chan) : s.usable d ≤ b.usable d := by
  have h1 := h.level d
  simp only [State.usable, Channel.usable, h.volume d]
  omega

/-- A channel's residue, written. -/
def setResidue (c : Chan) (v : Nat) (s : State) : State :=
  { s with meter := { s.meter with residues := s.meter.residues.set c v } }

theorem setResidue_kept (c : Chan) (v : Nat) (hv : v < Config.unitsPerNl) : Kept s (setResidue c v s) := by
  refine (Kept.refl s).ofMeter _ rfl fun d hd => ?_
  by_cases hc : c = d
  · subst hc
    simpa using hv
  · have hn : c.val ≠ d.val := fun e => hc (Fin.ext e)
    simpa [Vector.getElem_set, hn] using hd

theorem meterChannel_drawn {b : State} (h : Draws b s) (n : Nat) (row : DropRow) (report : SwathReport) (c : Chan) :
    Draws b (meterChannel n row report s c) := by
  unfold meterChannel
  dsimp only
  generalize debitOf _ = debit
  have hv : residueOf (trimmedTotal row report.drops[c] s.meter.trims[c] s.meter.residues[c]) < Config.unitsPerNl :=
    Nat.mod_lt _ (by decide)
  generalize residueOf (trimmedTotal row report.drops[c] s.meter.trims[c] s.meter.residues[c]) = v at hv ⊢
  have hp := mapPrint_kept (setResidue_kept c v hv (s := s)) n (chargePrint c (s.channel c) debit)
    fun p _ => chargePrint_quiet _ _ _ p
  have hch : ∀ d, ((setResidue c v s).mapPrint n (chargePrint c (s.channel c) debit)).channel d = s.channel d :=
    fun _ => rfl
  change Draws b (((setResidue c v s).mapPrint n (chargePrint c (s.channel c) debit)).mapChannel c
    fun ch => ch.afterDraw debit)
  generalize (setResidue c v s).mapPrint n (chargePrint c (s.channel c) debit) = u at hp hch ⊢
  have ht : Core u (u.mapChannel c fun ch => ch.afterDraw debit) :=
    .same (mapChannel_held (.refl u) c _ rfl (afterDraw_law _))
  have hl : ∀ d, ((u.mapChannel c fun ch => ch.afterDraw debit).channel d).level ≤ (s.channel d).level := fun d => by
    rw [mapChannel_channel]
    split
    · rename_i hd
      rw [hch, hd]
      simp [Channel.afterDraw]
    · rw [hch]
  have hv : ∀ d, ((u.mapChannel c fun ch => ch.afterDraw debit).channel d).cartridgeVolume =
      (s.channel d).cartridgeVolume := fun d => by
    rw [mapChannel_channel]
    split
    · rename_i hd
      rw [hch, hd]
      rfl
    · rw [hch]
  have hle : ∀ d, (u.mapChannel c fun ch => ch.afterDraw debit).usable d ≤ s.usable d := fun d => by
    have h1 := hl d
    simp only [State.usable, Channel.usable, hv d]
    omega
  refine ⟨h.toCore.trans (hp.core.trans ht), fun w x l => ?_, fun d => (hl d).trans (h.level d),
    fun d => (hv d).trans (h.volume d)⟩
  refine ((hp.supply (h.work w) _ (h.supply w x l)).mono fun d hd => ?_).same rfl rfl fun d => ?_
  · exact hd.imp_right (Nat.lt_of_le_of_lt (hle d))
  · by_cases hd : (u.mapChannel c fun ch => ch.afterDraw debit).usable d < b.usable d
    · exact .inl (.inr hd)
    · right
      have h1 := h.usable_le d
      have h2 : u.usable d = s.usable d := congrArg Channel.usable (hch d)
      omega

theorem meterChannels_drawn {b : State} (h : Draws b s) (n : Nat) (row : DropRow) (report : SwathReport)
    (cs : List Chan) : Draws b (cs.foldl (meterChannel n row report) s) := by
  induction cs generalizing s with
  | nil => exact h
  | cons c cs ih => exact ih (meterChannel_drawn h n row report c)

/-- The state that a draw's repair finds. -/
def drawTold (c : Chan) (s : State) : State :=
  let t := reconsider c (updateIndication c s)
  if (t.channel c).level < Config.printFloor then resumeRefill c t else t

theorem drawTold_kept (c : Chan) (s : State) : Kept s (drawTold c s) := by
  have hu := reconsider_kept (updateIndication_kept (.refl s) c) c
  unfold drawTold
  dsimp only
  split
  · exact resumeRefill_kept hu c
  · exact hu

theorem drawTold_still (c : Chan) (s : State) : Still s (drawTold c s) := by
  have hu := (updateIndication_still c s).trans (reconsider_still c _)
  unfold drawTold
  dsimp only
  split
  · exact hu.trans (resumeRefill_still c _)
  · exact hu

theorem handOnDraw_eq (before s : State) (c : Chan) : handOnDraw before s c =
    if (s.channel c).level < (before.channel c).level then
      if (drawTold c s).usable c < before.usable c then repair c (drawTold c s) else drawTold c s
    else s := rfl

/-- What a draw hands on keeps the laws of the channels that do not stand aside. -/
theorem handOnDraw_kept (h : Kept r s) (before : State) (c : Chan) : Kept r (handOnDraw before s c) := by
  rw [handOnDraw_eq]
  split
  · split
    · exact repair_kept (h.trans (drawTold_kept c s)) c
    · exact h.trans (drawTold_kept c s)
  · exact h

/-- A draw handed on: its channel stands aside no more (R58, R63). -/
theorem handOnDraw_supply {b : State} (w : WorkLaw s) (hl : ∀ d, (s.channel d).level ≤ (b.channel d).level)
    (hv : ∀ d, (s.channel d).cartridgeVolume = (b.channel d).cartridgeVolume) (c : Chan) {x : Chan → Prop}
    (l : SupplyBut (fun d => x d ∨ (d = c ∧ s.usable d < b.usable d)) s) : SupplyBut x (handOnDraw b s c) := by
  have hk := drawTold_kept c s
  have hs := drawTold_still c s
  rw [handOnDraw_eq]
  split
  · have ht := hk.supply w _ l
    split
    · exact repair_supply (hk.work w) (ht.mono fun d hd => hd.imp_right (·.1))
    · rename_i hu
      rw [hs.usable] at hu
      refine ht.mono fun d hd => hd.resolve_right ?_
      rintro ⟨rfl, hlt⟩
      exact hu hlt
  · rename_i hn
    refine l.mono fun d hd => hd.resolve_right ?_
    rintro ⟨rfl, hlt⟩
    have h1 := hl d
    simp only [State.usable, Channel.usable, hv d] at hlt
    omega

theorem handOnDraw_frame (b s : State) (c : Chan) (d : Chan) :
    ((handOnDraw b s c).channel d).level = (s.channel d).level ∧
      ((handOnDraw b s c).channel d).cartridgeVolume = (s.channel d).cartridgeVolume := by
  have hs := drawTold_still c s
  rw [handOnDraw_eq]
  split
  · split
    · unfold repair
      simp only [State.channel, repairLoop_ink]
      exact ⟨hs.level d, hs.volume d⟩
    · exact ⟨hs.level d, hs.volume d⟩
  · exact ⟨rfl, rfl⟩

/-- The draws of the channels of a list, handed on one after another. -/
theorem handOnDraws_supply {b : State} (cs : List Chan) (w : WorkLaw s)
    (hl : ∀ d, (s.channel d).level ≤ (b.channel d).level)
    (hv : ∀ d, (s.channel d).cartridgeVolume = (b.channel d).cartridgeVolume) {x : Chan → Prop}
    (l : SupplyBut (fun d => x d ∨ (d ∈ cs ∧ s.usable d < b.usable d)) s) :
    SupplyBut x (cs.foldl (handOnDraw b) s) := by
  induction cs generalizing s with
  | nil => exact l.mono fun d hd => hd.resolve_right (by simp)
  | cons c cs ih =>
    have hf := handOnDraw_frame b s c
    have hu : ∀ d, (handOnDraw b s c).usable d = s.usable d := fun d => by
      simp only [State.usable, Channel.usable, (hf d).1, (hf d).2]
    rw [List.foldl_cons]
    refine ih ((handOnDraw_kept (.refl s) b c).work w) (fun d => (hf d).1 ▸ hl d) (fun d => (hf d).2.trans (hv d)) ?_
    refine handOnDraw_supply w hl hv c (l.mono fun d hd => ?_)
    rw [hu]
    rcases hd with hd | ⟨hd, hlt⟩
    · exact .inl (.inl hd)
    · rcases List.mem_cons.mp hd with rfl | hd
      · exact .inr ⟨rfl, hlt⟩
      · exact .inl (.inr ⟨hd, hlt⟩)

/-- The draws of a swath and what they hand on (R58). -/
theorem draws_kept (b : State) (n : Nat) (row : DropRow) (report : SwathReport) :
    Kept b (channelList.foldl (handOnDraw b) (channelList.foldl (meterChannel n row report) b)) := by
  have hd := meterChannels_drawn (.refl b) n row report channelList
  generalize channelList.foldl (meterChannel n row report) b = s at hd ⊢
  have hk : Kept s (channelList.foldl (handOnDraw b) s) := foldl_kept _ (fun c hk => handOnDraw_kept hk _ c) _ (.refl s)
  refine (hd.toCore.trans hk.core).kept fun w x l => ?_
  exact handOnDraws_supply _ (hd.work w) hd.level hd.volume ((hd.supply w x l).mono fun d hx =>
    hx.imp_right fun hlt => ⟨mem_channelList d, hlt⟩)

theorem meterSwath_kept (h : Kept r s) (p : PrintRecord) (report : SwathReport) : Kept r (meterSwath p report s) := by
  refine releaseChecks_kept (Kept.trans ?_ (draws_kept _ _ _ _))
  exact (mapPrint_kept h p.handle (swathTiming s.clock.now)).ofMeter _ rfl fun _ => id

/-! ## Costs and the close of a print -/

theorem appendRecord_held (h : Held r s) (k : CostRecord) : Held r (appendRecord k s) :=
  h.ofCost _ rfl rfl (List.prefix_append _ _)

theorem mapEntries_mapEntries (p : PrintRecord) (f g : Edition → Edition) (table : List Edition)
    (hg : ∀ e, (g e).id = e.id) : mapEntries p f (mapEntries p g table) = mapEntries p (f ∘ g) table := by
  unfold mapEntries
  cases p.editionId with
  | none => rfl
  | some id =>
    simp only [List.map_map]
    refine List.map_congr_left fun e _ => ?_
    by_cases he : e.id = id <;> simp [hg, he]

/-- An entry counts the spoil of a print that was in flight. -/
theorem follows_spoil {p : PrintRecord} {c : List PrintRecord} {e : Edition}
    (h : Follows p c e (e.mapInFlight p.kind (· - 1))) : Follows p c e (e.spoil p.kind) :=
  ⟨h.id, h.inFlight, h.apInFlight, h.limit, h.apLimit⟩

/-- The costs take no part in the law of the editions. -/
theorem follows_cost {p : PrintRecord} {c : List PrintRecord} {e d : Edition} (h : Follows p c e d)
    (o : PrintOutcome) (total : Nat) : Follows p c e (d.addCost o total) := by
  cases o <;> exact ⟨h.id, h.inFlight, h.apInFlight, h.limit, h.apLimit⟩

theorem mapInFlight_id (e : Edition) (k : PrintKind) (f : Nat → Nat) : (e.mapInFlight k f).id = e.id := by
  cases k <;> rfl

/-- A record that is not in flight counts nowhere, and so it may leave. -/
theorem follows_none {p : PrintRecord} {e : Edition} (hi : p.inFlight = false)
    (h3 : e.accepted + e.inFlight ≤ e.limit) (h4 : e.apAccepted + e.apInFlight ≤ e.apLimit) : Follows p [] e e :=
  ⟨rfl, by simp [flies, flying, hi], by simp [flies, flying, hi], h3, h4⟩

theorem spoil_tieKept (e : Edition) (k : PrintKind) : TieKept e (e.spoil k) :=
  (mapInFlight_tieKept e k (· - 1)).trans (.same rfl rfl rfl rfl rfl)

theorem addCost_tieKept (e : Edition) (o : PrintOutcome) (total : Nat) : TieKept e (e.addCost o total) := by
  cases o <;> exact .same rfl rfl rfl rfl rfl

theorem imaged_cases {p : PrintRecord} (h : p.imaged = true) : p.state ≠ .active ∧ p.state ≠ .waiting := by
  cases hs : p.state <;> simp [PrintRecord.imaged, hs] at h <;> decide

theorem imaged_not_ready {p : PrintRecord} (h : p.imaged = true) : p.state ≠ .ready := by
  cases hs : p.state <;> simp [PrintRecord.imaged, hs] at h <;> decide

/-- An imaged print closes: its record takes the place in the cost log that the print held. -/
theorem closePrint_kept (h : Kept r s) (n : Nat) (cutNone : Bool) (hi : WorkLaw r → StageAt 2 n s) :
    Kept r (closePrint n cutNone s) := by
  unfold closePrint
  split
  · exact h
  · rename_i p hp
    dsimp only
    refine raise_kept (releaseChecks_kept ?_) _
    have hn := findPrint_handle hp
    subst hn
    have hd := replaced_dropAt (n := p.handle) s.queue.prints rfl
    generalize costRecordOf p _ _ _ = k
    generalize p.outcome.getD .spoiled = o
    have hh : Held r (if p.inFlight = true then s.countSpoil p else s) := by
      split
      · exact mapEditionOf_held h.toHeld _ _
      · exact h.toHeld
    refine h.ofWorkFrom (dropPrint_held (mapEditionOf_held (appendRecord_held hh _) _ _) _) (fun wr w => ?_)
      (fun wr w m j => ?_) (fun w x l => ?_) fun w x l => ?_
    · have him := stage_imaged.mpr (Nat.le_antisymm (by unfold PrintRecord.stage; split <;> decide)
        (hi wr p (findPrint_mem hp) rfl))
      have hc := imaged_cases him
      have hl := w.printsLaw.places
      by_cases hf : p.inFlight = true
      · simp only [hf, if_true]
        refine work_change w hp (fun e => (e.spoil p.kind).addCost o k.total)
          (c := []) (by simpa [State.dropPrint, appendRecord, State.countSpoil] using hd) ?_ (by simp) ?_ (.inr rfl)
          (.stays (by simp [actives, hc.1]) (by simp [State.dropPrint, appendRecord, State.countSpoil]))
          (by simpa [State.dropPrint, appendRecord, State.countSpoil] using w.printsLaw.printing)
          (by simpa [State.dropPrint, appendRecord, State.countSpoil] using w.printsLaw.positioning) (by simp) ?_
          (by simpa [State.dropPrint, appendRecord, State.countSpoil] using w.rollLaw)
        · simp only [State.dropPrint, State.mapEditionOf_table, appendRecord, State.countSpoil]
          exact mapEntries_mapEntries p (fun e => e.addCost o k.total) (Edition.spoil p.kind) _
            fun e => mapInFlight_id e p.kind _
        · intro e _ hid h1 h2 h3 h4
          exact follows_cost (follows_spoil (follows_lower hf (by simp) hid h1 h2 h3 h4)) _ _
        · simp only [live_one, hc.2]
          simp [State.dropPrint, appendRecord, State.countSpoil, State.liveCount]
          omega
      · simp only [hf, Bool.false_eq_true, if_false]
        refine work_change w hp (fun e => e.addCost o k.total)
          (c := []) (by simpa [State.dropPrint, appendRecord] using hd)
          (by simp [State.dropPrint, appendRecord]) (by simp) ?_ (.inr rfl)
          (.stays (by simp [actives, hc.1]) (by simp [State.dropPrint, appendRecord]))
          (by simpa [State.dropPrint, appendRecord] using w.printsLaw.printing)
          (by simpa [State.dropPrint, appendRecord] using w.printsLaw.positioning) (by simp) ?_
          (by simpa [State.dropPrint, appendRecord] using w.rollLaw)
        · intro e _ hid h1 h2 h3 h4
          exact follows_cost (follows_none (by simpa using hf) h3 h4) _ _
        · simp only [live_one, hc.2]
          simp [State.dropPrint, appendRecord, State.liveCount]
          omega
    · refine forward_change w hp (c := []) ?_ (by simp) m j
      split <;> simpa [State.dropPrint, appendRecord, State.countSpoil] using hd
    · by_cases hf : p.inFlight = true
      · simp only [hf, if_true]
        refine ties_change w hp (fun e => (e.spoil p.kind).addCost o k.total) (c := [])
          (by simpa [State.dropPrint, appendRecord, State.countSpoil] using hd) ?_ (by simp)
          (fun e => (spoil_tieKept e p.kind).trans (addCost_tieKept _ o k.total))
          (by simp [State.dropPrint, appendRecord, State.countSpoil]) x l
        simp only [State.dropPrint, State.mapEditionOf_table, appendRecord, State.countSpoil]
        exact mapEntries_mapEntries p (fun e => e.addCost o k.total) (Edition.spoil p.kind) _
          fun e => mapInFlight_id e p.kind _
      · simp only [hf, Bool.false_eq_true, if_false]
        exact ties_change w hp (fun e => e.addCost o k.total) (c := [])
          (by simpa [State.dropPrint, appendRecord] using hd) (by simp [State.dropPrint, appendRecord]) (by simp)
          (fun e => addCost_tieKept e o k.total) (by simp [State.dropPrint, appendRecord]) x l
    · refine supply_change w hp (c := []) ?_ (by simp) (.leaves ?_ (by simp)) (fun d => ?_)
        (fun d => .inl (by simp)) x l
      all_goals split <;>
        simp [State.dropPrint, appendRecord, State.countSpoil, State.usable, State.channel] <;>
        simpa [State.dropPrint, appendRecord, State.countSpoil] using hd

/-- Imaged prints close, one after another. -/
theorem closeAll_kept (hs : List Nat) (h : Kept r s) (cutNone : Bool) (hi : WorkLaw r → ∀ n ∈ hs, StageAt 2 n s) :
    Kept r (hs.foldl (fun t n => closePrint n cutNone t) s) := by
  induction hs generalizing s with
  | nil => exact h
  | cons n hs ih =>
    refine ih (closePrint_kept h n cutNone fun w => hi w n (List.mem_cons_self ..)) fun w m hm => ?_
    exact (closePrint_kept (.refl s) n cutNone fun _ => hi w n (List.mem_cons_self ..)).forward (h.work w) m 2
      (hi w m (List.mem_cons_of_mem _ hm))

theorem reconcileMarker_held (h : Held r s) : Held r (reconcileMarker s) := by
  unfold reconcileMarker
  split
  · exact h
  · rename_i m _
    dsimp only
    refine setOpenMarker_held (saveInk_held ?_) _
    have hd : Held r (appendRecord (reconcileRecord m s.ink.channels (nextSequence s.cost.sequence))
        { s with ink := { s.ink with
          channels := Vector.ofFn fun c : Chan => (s.channel c).afterDraw (m.amount (s.channel c) c) } }) := by
      refine appendRecord_held ?_ _
      refine h.ofInk _ (fun c => ?_) (fun c l => ?_) id
      · simp [Channel.afterDraw]
      · simpa using afterDraw_law (m.amount (s.channel c) c) l
    split
    · exact mapEdition_held hd _ _
    · exact hd

/-! ## Becoming ACTIVE and leaving it -/

theorem dropFeedAsk_kept (h : Kept r s) : Kept r (dropFeedAsk s) := by
  unfold dropFeedAsk
  split
  · exact h
  · refine (tell_kept h _).ofEngine _ rfl fun l hq => ?_
    exact ⟨(l hq).1, (l hq).2.1, rfl⟩

theorem forgetSequence_kept (h : Kept r s) : Kept r (forgetSequence s) := h.ofMeter _ rfl fun _ => id

theorem startFlushWait_kept (h : Kept r s) : Kept r (startFlushWait s) := h.ofQueue _

theorem mapEditionOf_id (s : State) (p : PrintRecord) : s.mapEditionOf p id = s := by
  unfold State.mapEditionOf
  split
  · simp [State.mapEdition]
  · rfl

/-- An ACTIVE print is ACTIVE no more: its record goes on as imaged, and its edition's counts follow. -/
theorem endActive_kept (h : Kept r s) {p : PrintRecord} (hp : WorkLaw s → s.findPrint p.handle = some p)
    (hs : p.state = .active) (f : PrintRecord → PrintRecord) (g : Edition → Edition)
    (hf : (f p).handle = p.handle ∧ (f p).editionId = p.editionId ∧ (f p).refSet = p.refSet ∧
      (f p).imaged = true ∧ (f p).state ≠ .scan)
    (hg : WorkLaw s → ∀ e ∈ s.registry.table, p.editionId = some e.id → flies p .edition e.id ≤ e.inFlight →
      flies p .artistProof e.id ≤ e.apInFlight → e.accepted + e.inFlight ≤ e.limit →
      e.apAccepted + e.apInFlight ≤ e.apLimit → Follows p [{ f p with reservation := noReservation }] e (g e))
    (ht : ∀ e, TieKept e (g e)) :
    Kept r (endActive p.handle f (s.mapEditionOf p g)) := by
  obtain ⟨h1, h2, h3, h4, h5⟩ := hf
  have hr := replaced_mapAt (n := p.handle) (p := p) (fun q => { f q with reservation := noReservation })
    s.queue.prints rfl
  have hi : ({ f p with reservation := noReservation } : PrintRecord).imaged = true := h4
  have hc := imaged_cases hi
  unfold endActive
  dsimp only
  refine h.ofWork ?_ (fun w => ?_) (fun w m k => ?_) (fun w => ties_change w (hp w) g
    (by simpa [mapAt, setOpenMarker] using hr) (by simp [setOpenMarker]) (by simp [h2, h3]) ht (by simp [setOpenMarker])) fun w => supply_change w (hp w)
    (by simpa [mapAt, setOpenMarker] using hr) (Nat.le_refl _)
    (.stays (by simp [setOpenMarker]) (by simp [hs]) (by simpa using imaged_not_ready h4))
    (fun d => by simp [setOpenMarker, State.usable, State.channel])
    fun d => .inl (by simp [share, imaged_not_ready h4, (imaged_cases h4).1])
  · exact mapMedia_held (setOpenMarker_held (mapEngine_stilled (mapPrint_held (mapEditionOf_held h.toHeld _ _) _ _) _) _) _
  · have hl := w.printsLaw.places
    refine work_change w (hp w) g (by simpa [mapAt, setOpenMarker] using hr) (by simp [setOpenMarker])
      (by simp [h2, h3]) (hg w) (.inl (by simp [h1]))
      (.ends (by simp [actives, hs]) (by simpa [actives] using hc.1) (by simp [setOpenMarker]))
      (by simp [setOpenMarker]) (by simp [setOpenMarker]) ?_ ?_ ?_
    · simp only [List.mem_singleton, forall_eq]
      refine ⟨fun x => ?_, fun _ => hi⟩
      rcases x with x | x
      · rw [hi] at x; cases x
      · exact absurd x h5
    · simp only [live_one, hs]
      simp [setOpenMarker, State.liveCount, hc.2]
      omega
    · have := w.rollLaw
      refine ⟨by simpa [setOpenMarker, releaseHold] using this.order,
        by simpa [setOpenMarker, releaseHold] using this.ahead, ?_⟩
      simpa [setOpenMarker, releaseHold] using this.moving
  · refine forward_change w (hp w) (by simpa [mapAt, setOpenMarker] using hr) ?_ m k
    simp only [List.mem_singleton, forall_eq]
    refine ⟨h1, ?_⟩
    rw [stage_imaged.mp hi]
    simp [PrintRecord.stage, hs]

/-- What follows the end of an ACTIVE print. -/
theorem leaveActive_kept {n : Nat} {f : PrintRecord → PrintRecord} (h : Kept r (endActive n f s)) (news : PrintNews) :
    Kept r (leaveActive n f news s) := by
  unfold leaveActive
  exact releaseChecks_kept (printNotice_kept (startFlushWait_kept (inkPrintEnds_kept
    (saveRoll_kept (saveInk_kept (forgetSequence_kept (dropFeedAsk_kept h)))))) _ _)

/-- The record that the first ACTIVE print is found by. -/
theorem active_find (w : WorkLaw s) {p : PrintRecord} (hp : s.active = some p) : s.findPrint p.handle = some p :=
  findPrint_of_mem w (List.mem_of_find?_eq_some hp)

theorem active_state {p : PrintRecord} (hp : s.active = some p) : p.state = .active := by
  simpa using List.find?_some hp

theorem printStop_kept (h : Kept r s) (n : Nat) : Kept r (printStop n s) :=
  mapEngine_kept (tell_kept h _) _

theorem inFlight_active {p : PrintRecord} (hs : p.state = .active) (ho : p.outcome = none) : p.inFlight = true := by
  simp [PrintRecord.inFlight, PrintRecord.live, hs, ho]

theorem active_undecided (w : WorkLaw s) {n : Nat} {p : PrintRecord} (hp : s.findPrint n = some p)
    (hs : p.state = .active) : p.outcome = none :=
  w.printsLaw.undecided p (findPrint_mem hp) (.inl (by simp [PrintRecord.imaged, hs]))

/-- The record is the one that `active` or its handle finds. -/
def Found (p : PrintRecord) (s : State) : Prop := s.active = some p ∨ s.findPrint p.handle = some p

theorem Found.find {p : PrintRecord} (h : Found p s) (w : WorkLaw s) : s.findPrint p.handle = some p := by
  rcases h with h | h
  · exact active_find w h
  · exact h

theorem Found.queue {t : State} {p : PrintRecord} (h : Found p s) (hq : t.queue = s.queue) : Found p t := by
  simpa only [Found, State.active, State.findPrint, hq] using h

/-- An ACTIVE print that is spoiled is ACTIVE no more. -/
theorem spoilEnd_kept (h : Kept r s) {p : PrintRecord} (hp : Found p s) (hs : p.state = .active) (stop : Bool) :
    Kept r (endActive p.handle (fun q => { q with state := .travel, outcome := some .spoiled })
      ((unlist (fun e => e.kind == .scan && e.handle == some p.handle)
        (if stop = true then printStop p.handle s else s)).countSpoil p)) := by
  have hu : Kept r (unlist (fun e => e.kind == .scan && e.handle == some p.handle)
      (if stop = true then printStop p.handle s else s)) := by
    refine unlist_kept ?_ _
    split
    · exact printStop_kept h _
    · exact h
  have hq := hp.queue (t := unlist (fun e => e.kind == .scan && e.handle == some p.handle)
      (if stop = true then printStop p.handle s else s)) (by split <;> rfl)
  generalize unlist (fun e => e.kind == .scan && e.handle == some p.handle)
    (if stop = true then printStop p.handle s else s) = u at hu hq ⊢
  exact endActive_kept hu hq.find hs _ _ ⟨rfl, rfl, rfl, rfl, by simp⟩
    (fun w e _ hid h1 h2 h3 h4 => follows_spoil (follows_lower
      (inFlight_active hs (active_undecided w (hq.find w) hs)) (by simp [PrintRecord.inFlight]) hid h1 h2 h3 h4))
    fun e => spoil_tieKept e _

/-- An ACTIVE print is spoiled. -/
theorem spoilActive_kept (h : Kept r s) {p : PrintRecord} (hp : Found p s) (hs : p.state = .active) (stop : Bool) :
    Kept r (spoilActive p stop s) := leaveActive_kept (spoilEnd_kept h hp hs stop) _

/-- A spoiled print has been imaged. -/
theorem spoilActive_stage (w : WorkLaw s) {p : PrintRecord} (hp : Found p s) (hs : p.state = .active) (stop : Bool) :
    StageAt 2 p.handle (spoilActive p stop s) := by
  have he := (spoilEnd_kept (.refl s) hp hs stop).work w
  unfold spoilActive
  dsimp only
  generalize (unlist (fun e => e.kind == .scan && e.handle == some p.handle)
        (if stop = true then printStop p.handle s else s)).countSpoil p = u at he ⊢
  refine (leaveActive_kept (.refl _) _).forward he p.handle 2 fun q hq hn => ?_
  simp only [endActive, State.mapMedia_queue, setOpenMarker_queue, State.mapEngine_queue, State.mapPrint_queue,
    List.mem_map] at hq
  obtain ⟨q0, -, rfl⟩ := hq
  by_cases h0 : q0.handle = p.handle
  · simp [h0, PrintRecord.stage]
  · simp [h0] at hn

theorem finishImaging_kept (h : Kept r s) {p : PrintRecord} (hp : Found p s)
    (hs : p.state = .active) : Kept r (finishImaging p s) := by
  unfold finishImaging
  split
  · have := endActive_kept h hp.find hs (fun q => { q with state := .travel }) id ⟨rfl, rfl, rfl, rfl, by simp⟩
      (fun w e _ hid h1 h2 h3 h4 => by
        have ho := active_undecided w (hp.find w) hs
        exact ⟨rfl, by simp [flies, flying_one, PrintRecord.inFlight, PrintRecord.live, hs, ho, hid],
          by simp [flies, flying_one, PrintRecord.inFlight, PrintRecord.live, hs, ho, hid], h3, h4⟩) .refl
    rw [mapEditionOf_id] at this
    exact leaveActive_kept this _
  · rename_i hrs
    have := endActive_kept h hp.find hs (fun q => { q with state := .separate, outcome := some .accepted }) id
      ⟨rfl, rfl, rfl, rfl, by simp⟩ (fun w e _ hid _ _ _ _ =>
        absurd (w.editionLaw.known p (findPrint_mem (hp.find w)) _ hid).1 hrs) .refl
    rw [mapEditionOf_id] at this
    exact leaveActive_kept this _

/-- A READY print becomes ACTIVE where one was being positioned. -/
theorem becomeActive_kept (h : Kept r s) {p : PrintRecord} (hp : s.findPrint p.handle = some p)
    (hs : p.state = .ready) {m : Nat} (hh : s.media.hold = .positioning m) : Kept r (becomeActive p s) := by
  have hr := replaced_mapAt (n := p.handle) (p := p)
    (fun q => { q with state := .active, lastSwath := some s.clock.now }) s.queue.prints rfl
  unfold becomeActive
  dsimp only
  refine h.ofWork ?_ (fun w => ?_) (fun w m k => ?_) (fun w => ties_change w hp id
    (by simpa [mapAt, setOpenMarker, silenceStart, State.unready] using hr)
    (by simp [setOpenMarker, silenceStart, State.unready, mapEntries]; split <;> rfl) (by simp) .refl
    (by simp [setOpenMarker, silenceStart, State.unready])) fun w => supply_change w hp
    (by simpa [mapAt, setOpenMarker, silenceStart, State.unready] using hr) (Nat.le_refl _)
    (.leaves (by simp [setOpenMarker, silenceStart, State.unready]) (by simp))
    (fun d => by simp [setOpenMarker, silenceStart, State.unready, State.usable, State.channel])
    fun d => .inl (by simp [share, hs])
  · exact silenceStart_held (tell_held (unready_held (mapPrint_held (mapMedia_held (setOpenMarker_held h.toHeld _) _)
      _ _) _) _) _
  · have hl := w.printsLaw.places
    have ho := w.printsLaw.undecided p (findPrint_mem hp) (.inl (by simp [PrintRecord.imaged, hs]))
    have ha := w.printsLaw.awaiting p (findPrint_mem hp)
    refine work_change w hp id (by simpa [mapAt, setOpenMarker, silenceStart, State.unready] using hr)
      (by simp [setOpenMarker, silenceStart, State.unready, mapEntries]; split <;> rfl) (by simp) ?_ (.inl rfl)
      (.begins (w.printsLaw.positioning m hh) (by simp [actives, setOpenMarker, silenceStart, State.unready, openMarkerOf]))
      (by simp [setOpenMarker, silenceStart, State.unready])
      (by simp [setOpenMarker, silenceStart, State.unready]) ?_ ?_ ?_
    · intro e _ hid h1 h2 h3 h4
      exact ⟨rfl, by simp [flies, flying_one, PrintRecord.inFlight, PrintRecord.live, hs, ho, hid],
        by simp [flies, flying_one, PrintRecord.inFlight, PrintRecord.live, hs, ho, hid], h3, h4⟩
    · simp only [List.mem_singleton, forall_eq]
      refine ⟨fun _ => ho, fun x => ?_⟩
      simpa [PrintRecord.imaged, hs] using ha x
    · simp only [live_one, hs]
      simp [setOpenMarker, silenceStart, State.unready, State.liveCount]
      omega
    · exact ⟨w.rollLaw.order, w.rollLaw.ahead, w.rollLaw.moving⟩
  · refine forward_change w hp (by simpa [mapAt, setOpenMarker, silenceStart, State.unready] using hr) ?_ m k
    simp [PrintRecord.stage, hs]

theorem completePositioning_kept (h : Kept r s) (n : Nat) {m : Nat} (hh : s.media.hold = .positioning m) :
    Kept r (completePositioning n s) := by
  unfold completePositioning
  split
  · exact h
  · rename_i p hp
    have hn := findPrint_handle hp
    subst hn
    split
    · exact printNotice_kept (inkPrintBegins_kept (forgetSequence_kept (becomeActive_kept h hp ‹_› hh))) _ _
    · exact h

theorem abandonPositioned_kept (h : Kept r s) : Kept r (abandonPositioned s) := by
  unfold abandonPositioned
  split
  · exact releaseChecks_kept (abandonStart_kept h _)
  · exact h

theorem faultOwners_kept (h : Kept r s) : Kept r (faultOwners s) := by
  unfold faultOwners
  dsimp only
  split
  · rename_i p hp
    exact spoilActive_kept (abandonPositioned_kept h) (.inl hp) (active_state hp) _
  · exact abandonPositioned_kept h

theorem faultTransport_kept (h : Kept r s) (cause : FaultCause) : Kept r (faultTransport cause s) := by
  unfold faultTransport
  split
  · exact haltUpdate_kept (mapMedia_kept h _)
  · exact haltUpdate_kept (faultOwners_kept (haltUpdate_kept (rollNotice_kept (mapMedia_kept h _) _)))

/-! ## Spectro head, verdicts, reference sets -/

theorem sendCalibrate_kept (h : Kept r s) (requested : Bool) : Kept r (sendCalibrate requested s) := by
  unfold sendCalibrate
  exact mapColour_kept (command_kept h _) _

theorem autoCalibrate_kept (h : Kept r s) : Kept r (autoCalibrate s) := by
  unfold autoCalibrate
  split
  · exact sendCalibrate_kept h _
  · exact h

theorem sendScan_kept (h : Kept r s) (job : ScanJob) : Kept r (sendScan job s) := by
  unfold sendScan
  exact mapColour_kept (command_kept h _) _

theorem afterCommand_kept (h : Kept r s) : Kept r (afterCommand s) := by
  unfold afterCommand
  split
  · exact sendScan_kept (mapColour_kept h _) _
  · exact autoCalibrate_kept h

theorem calibrationNotice_kept (h : Kept r s) (news : CalibrationNews) (requested : Bool) :
    Kept r (calibrationNotice news requested s) := raise_kept h _

theorem failCalibration_kept (h : Kept r s) (news : CalibrationNews) (requested : Bool) :
    Kept r (failCalibration news requested s) :=
  afterCommand_kept (calibrationNotice_kept (mapColour_kept h _) _ _)

theorem completeCalibration_kept (h : Kept r s) (requested : Bool) : Kept r (completeCalibration requested s) :=
  afterCommand_kept (calibrationNotice_kept (mapColour_kept h _) _ _)

theorem ran_quiet (e : Edition) (v : Verdict) : QuietEntry e (e.ran v) := by
  cases v <;> exact ⟨rfl, rfl, rfl, rfl, rfl, rfl, rfl, rfl, fun h => h⟩

theorem settled_quiet (e : Edition) : QuietEntry e e.settled := by
  unfold Edition.settled
  repeat' split
  · rename_i h
    refine ⟨rfl, rfl, rfl, rfl, rfl, rfl, rfl, rfl, fun _ e => ?_⟩
    rw [e] at h
    rcases h.1 with h | h <;> cases h
  · rename_i h
    exact ⟨rfl, rfl, rfl, rfl, rfl, rfl, rfl, rfl, fun _ e => by simp [h.1] at e⟩
  · rename_i h
    exact ⟨rfl, rfl, rfl, rfl, rfl, rfl, rfl, rfl, fun _ e => by simp [h.1] at e⟩
  · exact .refl e

/-- An entry counts the verdict of a print that was in flight. -/
theorem follows_judged {p : PrintRecord} {c : List PrintRecord} {e : Edition} (hi : p.inFlight = true)
    (hc : ∀ q ∈ c, q.inFlight = false) (hid : p.editionId = some e.id)
    (h1 : flies p .edition e.id ≤ e.inFlight) (h2 : flies p .artistProof e.id ≤ e.apInFlight)
    (h3 : e.accepted + e.inFlight ≤ e.limit) (h4 : e.apAccepted + e.apInFlight ≤ e.apLimit) (v : Verdict)
    (o : PrintOutcome) : Follows p c e (e.judged p.kind v o) := by
  have hl := follows_lower hi hc hid h1 h2 h3 h4
  have hq := (ran_quiet (e.counted p.kind o) v).trans (settled_quiet _)
  have hcount : Follows p c e (e.counted p.kind o) := by
    cases hk : p.kind <;> simp [flies, hi, hid, hk] at h1 h2 <;>
      have h5 := hl.inFlight <;> have h6 := hl.apInFlight <;> have h7 := hl.limit <;> have h8 := hl.apLimit <;>
      simp only [hk, Edition.mapInFlight] at h5 h6 h7 h8 <;>
      cases o <;> constructor <;> simp only [Edition.counted, Edition.mapInFlight] <;> omega
  exact ⟨hq.id.trans hcount.id, by rw [Edition.judged, hq.inFlight]; exact hcount.inFlight,
    by rw [Edition.judged, hq.apInFlight]; exact hcount.apInFlight,
    by rw [Edition.judged, hq.inFlight, hq.accepted, hq.limit]; exact hcount.limit,
    by rw [Edition.judged, hq.apInFlight, hq.apAccepted, hq.apLimit]; exact hcount.apLimit⟩

/-- A verdict ties an entry to no set but the one of its accepted print. -/
theorem judged_tie (e : Edition) (k : PrintKind) (v : Verdict) (o : PrintOutcome)
    (h : ¬(o = .accepted ∧ k ≠ .proof)) : TieKept e (e.judged k v o) := by
  refine TieKept.trans ((mapInFlight_tieKept e k (· - 1)).trans ?_) ((ran_quiet _ v).trans (settled_quiet _)).tieKept
  cases o <;> cases k <;> first | exact .same rfl rfl rfl rfl rfl | simp at h

/-- The set that an accepted print fixes (R109). -/
def Fixes (p : PrintRecord) (o : PrintOutcome) (i : Nat) : Prop := (o = .accepted ∧ p.kind ≠ .proof) ∧ p.refSet = some i

section recordVerdict

variable {p : PrintRecord} (hp : s.findPrint p.handle = some p) (hs : p.state = .scan) (o : PrintOutcome)
  (v : ScanResult)

theorem recordVerdict_held (h : Held r s) (p : PrintRecord) : Held r (recordVerdict p o v s) :=
  mapPrint_held (mapEditionOf_held h _ _) _ _

/-- The record with its verdict stands in the place of the record. -/
theorem recordVerdict_replaced : Replaced p.handle p
    [{ p with verdict := some v.verdict, largestDE := v.largest.map (·.1), outcome := some o
              number := numberFor p o s, state := .separate }]
    s.queue.prints (recordVerdict p o v s).queue.prints := by
  have hr := replaced_mapAt (n := p.handle) (p := p)
    (fun q => { q with
      verdict := some v.verdict, largestDE := v.largest.map (·.1), outcome := some o, number := numberFor p o s
      state := .separate })
    s.queue.prints rfl
  simpa [recordVerdict, mapAt] using hr

include hp hs

/-- A print in SCAN and its edition take the verdict. -/
theorem recordVerdict_work (w : WorkLaw s) : WorkLaw (recordVerdict p o v s) := by
  have hl := w.printsLaw.places
  have ho := w.printsLaw.undecided p (findPrint_mem hp) (.inr hs)
  refine work_change w hp (fun e => e.judged p.kind v.verdict o) (recordVerdict_replaced o v) (by simp [recordVerdict])
    (by simp)
    (fun e _ hid h1 h2 h3 h4 => follows_judged (by simp [PrintRecord.inFlight, PrintRecord.live, hs, ho])
      (by simp [PrintRecord.inFlight]) hid h1 h2 h3 h4 _ _) (by simp)
    (.stays (by simp [actives, hs]) (by simp [recordVerdict]))
    (by simpa [recordVerdict] using w.printsLaw.printing) (by simpa [recordVerdict] using w.printsLaw.positioning)
    ?_ ?_ (by simpa [recordVerdict] using w.rollLaw)
  · simp [PrintRecord.imaged]
  · simp only [live_one, hs]
    simp [State.liveCount, recordVerdict]
    omega

theorem recordVerdict_supply (w : WorkLaw s) (x : Chan → Prop) (l : SupplyBut x s) :
    SupplyBut x (recordVerdict p o v s) :=
  supply_change w hp (recordVerdict_replaced o v) (Nat.le_refl _)
    (.stays (by simp [recordVerdict]) (by simp [hs]) (by simp))
    (fun d => by simp [recordVerdict, State.usable, State.channel]) (fun d => .inl (by simp [share])) x l

theorem recordVerdict_forward (w : WorkLaw s) (m k : Nat) (h : StageAt k m s) :
    StageAt k m (recordVerdict p o v s) :=
  forward_change w hp (recordVerdict_replaced o v) (by simp [PrintRecord.stage, hs]) m k h

omit hs in
/-- The ties stay but for the set of the accepted print. -/
theorem recordVerdict_ties (w : WorkLaw s) {x : Nat → Prop} (l : TiesBut x s) :
    TiesBut (fun i => x i ∨ Fixes p o i) (recordVerdict p o v s) := by
  have hx : TiesBut (fun i => x i ∨ Fixes p o i) s := ⟨l.index, l.own, fun e he h => (l.tied e he h).imp_left .inl⟩
  by_cases ha : o = .accepted ∧ p.kind ≠ .proof
  · have hr := recordVerdict_replaced (s := s) (p := p) o v
    have hj : ∀ e : Edition, (e.judged p.kind v.verdict o).id = e.id ∧ (e.judged p.kind v.verdict o).refSet = e.refSet := fun e => by
      have k := ((ran_quiet (e.counted p.kind o) v.verdict).trans (settled_quiet _)).tieKept
      have c : (e.counted p.kind o).id = e.id ∧ (e.counted p.kind o).refSet = e.refSet := by
        cases o <;> cases p.kind <;> exact ⟨rfl, rfl⟩
      exact ⟨k.id.trans c.1, k.refSet.trans c.2⟩
    obtain ⟨a, b, he, -, h1, h2⟩ := split_print w.printsLaw.handles hp
    have hq : ∀ q ∈ (recordVerdict p o v s).queue.prints,
        ∃ q' ∈ s.queue.prints, q'.editionId = q.editionId ∧ q'.refSet = q.refSet := fun q hm => by
      rw [hr a b he h1 h2] at hm
      simp only [List.mem_append, List.mem_singleton] at hm
      rcases hm with hx | rfl | hx
      · exact ⟨q, by rw [he]; simp [hx], rfl, rfl⟩
      · exact ⟨p, findPrint_mem hp, rfl, rfl⟩
      · exact ⟨q, by rw [he]; simp [hx], rfl, rfl⟩
    have ht : ∀ d ∈ (recordVerdict p o v s).registry.table,
        ∃ e ∈ s.registry.table, d.id = e.id ∧ d.refSet = e.refSet ∧ (d = e ∨ p.editionId = some e.id) := fun d hd => by
      obtain ⟨e, he, rfl | ⟨hi, rfl⟩⟩ := mem_mapEntries (by simpa [recordVerdict] using hd)
      · exact ⟨_, he, rfl, rfl, .inl rfl⟩
      · exact ⟨e, he, (hj e).1, (hj e).2, .inr hi⟩
    refine ⟨fun d hd => ?_, fun q hm d hd hi => ?_, fun d hd h => ?_⟩
    · obtain ⟨e, he, -, k, -⟩ := ht d hd
      rw [k]
      exact l.index e he
    · obtain ⟨q', hm', k1, k2⟩ := hq q hm
      obtain ⟨e, he, k, k', -⟩ := ht d hd
      rw [← k2, k']
      exact l.own q' hm' e he (by rw [k1, hi, k])
    · obtain ⟨e, he, -, k, rfl | hi⟩ := ht d hd
      · exact (hx.tied _ he h).imp_right (by simp [State.refSet, recordVerdict])
      · exact .inl (.inr ⟨ha, by rw [k]; exact l.own p (findPrint_mem hp) e he hi⟩)
  · exact ties_change w hp (fun e => e.judged p.kind v.verdict o) (recordVerdict_replaced o v)
      (by simp [recordVerdict]) (by simp) (fun e => judged_tie e _ _ _ ha) (by simp [recordVerdict]) _ hx

end recordVerdict

theorem verdictEffects_kept (h : Kept r s) (e : Edition) : Kept r (verdictEffects e s) := by
  unfold verdictEffects
  split
  · exact h
  · split
    · exact h
    · split
      · exact haltUpdate_kept (editionNotice_kept h _ _)
      · exact haltUpdate_kept (holdEffects_kept h _)

/-- What a change of a set's mode leaves of each set. -/
theorem setRefMode_refSet (index : Nat) (mode : RefMode) (s : State) (i : Nat) :
    (setRefMode index mode s).refSet i = if index = i ∧ i < 32 then { s.refSet i with mode := mode } else s.refSet i := by
  unfold setRefMode State.refSet
  by_cases hi : index < 32
  · by_cases hj : index = i
    · subst hj
      simp [hi]
    · simp only [hi, dite_true, State.mapColour_colour, hj, false_and, if_false]
      rw [Vector.getElem?_set]
      simp [hj]
  · have : ¬(index = i ∧ i < 32) := fun h => hi (h.1 ▸ h.2)
    simp [hi, this]

/-- A set that is not SEALED is FIXED. -/
theorem fixed_kept (h : Kept r s) (index : Nat) (hm : (s.refSet index).mode ≠ .sealed) :
    Kept r (setRefMode index .fixed s) := by
  have ht : ∀ i, (s.refSet i).mode ≠ .opened → ((setRefMode index .fixed s).refSet i).mode ≠ .opened := fun i h => by
    rw [setRefMode_refSet]
    split
    · exact fun e => by cases e
    · exact h
  unfold setRefMode at ht ⊢
  split
  · rename_i hi
    simp only [hi, dite_true] at ht
    refine h.ofColour _ (fun d => ?_) fun x l =>
      l.pass (fun q m => ⟨q, m, rfl, rfl⟩) (fun d m => ⟨d, m, .refl d⟩) ht
    by_cases hd : index = d.val
    · subst hd
      have hs : (s.colour.sets[d.val]).mode ≠ .sealed := by simpa [State.refSet, hi] using hm
      simpa using SetKept.mk (a := s.colour.sets[d.val]) (b := { s.colour.sets[d.val] with mode := .fixed })
        rfl rfl rfl fun e => absurd e hs
    · simpa [Vector.getElem_set, hd] using SetKept.refl _
  · exact h

theorem fixSet_kept (h : Kept r s) (p : PrintRecord) (o : PrintOutcome) : Kept r (fixSet p o s) := by
  unfold fixSet
  split
  · exact h
  · exact h
  · split
    · rename_i hc
      exact fixed_kept h _ (by rw [hc.2]; decide)
    · exact h

/-- The set of an accepted print is OPEN no more (R109). -/
theorem fixSet_mode {p : PrintRecord} {o : PrintOutcome} {i : Nat} (hf : Fixes p o i) (hi : i < 32) :
    ((fixSet p o s).refSet i).mode ≠ .opened := by
  obtain ⟨⟨rfl, hk⟩, hr⟩ := hf
  unfold fixSet
  split
  · exact absurd ‹_› hk
  · rename_i hn _
    rw [hr] at hn
    cases hn
  · rename_i j hj _
    rw [hr] at hj
    cases hj
    split
    · rw [setRefMode_refSet]
      simp [hi]
    · rename_i hm
      simpa using hm

/-- With its set FIXED the accepted print's set stands aside no more (R109). -/
theorem fixSet_ties {p : PrintRecord} {o : PrintOutcome} {x : Nat → Prop} (w : WorkLaw s)
    (l : TiesBut (fun i => x i ∨ Fixes p o i) s) : TiesBut x (fixSet p o s) := by
  have hk := (fixSet_kept (.refl s) p o).ties w _ l
  refine ⟨hk.index, hk.own, fun e he h => ?_⟩
  rcases hk.tied e he h with (h | h) | h
  · exact .inl h
  · exact .inr (fixSet_mode h (hk.index e he))
  · exact .inr h

/-- Steps 1 to 3 of a verdict (R125): the record, the edition and the set. -/
theorem verdict_kept (h : Kept r s) {p : PrintRecord} (hp : s.findPrint p.handle = some p) (hs : p.state = .scan)
    (o : PrintOutcome) (v : ScanResult) : Kept r (fixSet p o (editionVerdict p o v s)) := by
  have hk : Kept (recordVerdict p o v s) (editionVerdict p o v s) := by
    unfold editionVerdict
    split
    · exact verdictEffects_kept (.refl _) _
    · exact .refl _
  have hf := fixSet_kept hk p o
  exact h.ofWork ((recordVerdict_held o v h.toHeld p).trans hf.toHeld)
    (fun w => hf.work (recordVerdict_work hp hs o v w))
    (fun w n k x => hf.forward (recordVerdict_work hp hs o v w) n k (recordVerdict_forward hp hs o v w n k x))
    (fun w x l =>
      have wv := recordVerdict_work hp hs o v w
      fixSet_ties (hk.work wv) (hk.ties wv _ (recordVerdict_ties hp o v w l)))
    fun w x l => hf.supply (recordVerdict_work hp hs o v w) x (recordVerdict_supply hp hs o v w x l)

theorem releaseSets_kept (h : Kept r s) : Kept r (releaseSets s) := by
  refine h.ofColour _ (fun i => ?_) fun x l => ⟨l.index, l.own, fun e he k => ?_⟩
  · simp only [Fin.getElem_fin, Vector.getElem_ofFn]
    split
    · rename_i hf
      refine ⟨rfl, rfl, rfl, fun e => ?_⟩
      simp only [freedSet, Bool.and_eq_true, beq_iff_eq] at hf
      exact absurd (hf.1.symm.trans e) (by decide)
    · exact .refl _
  · refine (l.tied e he k).imp_right fun hm => ?_
    have hi := l.index e he
    have hf : freedSet s.registry.table ⟨e.refSet, hi⟩ s.colour.sets[e.refSet] = false := by
      have : s.registry.table.any (fun d => d.holdsSet e.refSet) = true := List.any_eq_true.mpr ⟨e, he, k⟩
      simp only [freedSet, this, Bool.not_true, Bool.and_false]
    simp only [State.refSet, Vector.getElem?_ofFn, hi, dite_true, Fin.getElem_fin,
      hf, Bool.false_eq_true, if_false, Option.getD_some]
    simpa [State.refSet, hi] using hm

theorem latchFail_kept (h : Kept r s) (n : Nat) (v : Verdict) : Kept r (latchFail n v s) := by
  unfold latchFail
  split
  · exact mapEngine_kept h _
  · exact h

theorem issueVerdict_kept (h : Kept r s) (n index : Nat) (v : ScanResult) : Kept r (issueVerdict n index v s) := by
  unfold issueVerdict
  split
  · exact h
  · rename_i p hp
    have hn := findPrint_handle hp
    subst hn
    dsimp only
    split
    · rename_i hs
      exact releaseChecks_kept (unlist_kept (printNotice_kept (haltUpdate_kept (raise_kept
        (mapColour_kept (latchFail_kept (verdict_kept h hp hs _ _) _ _) _) _)) _ _) _)
    · exact h

theorem endScan_kept (h : Kept r s) (job : ScanJob) (tag : Nat) (stale discarded : Bool) (v : ScanResult) :
    Kept r (endScan job tag stale discarded v s) := by
  unfold endScan
  dsimp only
  split
  · exact mapColour_kept (mapColour_kept h _) _
  · exact issueVerdict_kept (mapColour_kept h _) _ _ _

/-- A print in TRAVEL with no outcome goes to SCAN. -/
theorem beginScan_kept (h : Kept r s) {p : PrintRecord} (hp : s.findPrint p.handle = some p) (hs : p.state = .travel)
    (ho : p.outcome = none) : Kept r (beginScan p s) := by
  have hn := printNotice_kept (mapPrint_kept h p.handle (fun q => { q with state := .scan }) fun q hq => by
    rw [hp] at hq
    cases hq
    exact ⟨rfl, rfl, rfl, rfl, rfl, .inr ⟨by simp [PrintRecord.imaged, hs], by simp [PrintRecord.imaged], fun _ => ho⟩,
      .inl, fun _ => Nat.le_refl _⟩) p.handle .scan
  unfold beginScan
  dsimp only
  split
  · exact issueVerdict_kept hn _ _ _
  · split
    · exact sendScan_kept hn _
    · exact mapColour_kept hn _

theorem handScan_kept (h : Kept r s) (n : Nat) : Kept r (handScan n s) := by
  unfold handScan
  dsimp only
  split
  · exact unlist_kept h _
  · rename_i p hp
    have hn := findPrint_handle hp
    subst hn
    split
    · rename_i hs
      exact beginScan_kept h hp hs.1 hs.2
    · exact unlist_kept h _

/-! ## The cutter -/

theorem fireBlade_kept (h : Kept r s) : Kept r (fireBlade s) := mapCutter_kept h _

theorem failCut_kept (h : Kept r s) (stage : CutStage) : Kept r (failCut stage s) := by
  unfold failCut
  split
  · exact h
  · exact faultTransport_kept (cutNotice_kept (mapCutter_kept h _) _) _

theorem flapRead_kept (h : Kept r s) : Kept r (flapRead s) := mapCutter_kept h _

theorem chuteStage_kept (h : Kept r s) (chute : Chute) : Kept r (chuteStage chute s) := by
  unfold chuteStage
  split
  · exact fireBlade_kept (flapRead_kept h)
  · refine Kept.ofInputs ?_ _
    exact mapCutter_kept (flapRead_kept h) _

theorem separateSpoiled_kept (h : Kept r s) (e : Station) : Kept r (separateSpoiled e s) := by
  unfold separateSpoiled
  split
  · rename_i p hk hp
    obtain ⟨n, -, hp⟩ := Option.bind_eq_some_iff.mp hp
    have hn := findPrint_handle hp
    subst hn
    split
    · rename_i hs
      refine printNotice_kept (mapPrint_kept h _ _ fun q hq => ?_) _ _
      rw [hp] at hq
      cases hq
      exact ⟨rfl, rfl, rfl, rfl, rfl,
        .inr ⟨by simp [PrintRecord.imaged, hs.1], by simp [PrintRecord.imaged], by simp⟩, .inl, fun _ => Nat.le_refl _⟩
    · exact h
  · exact h

theorem beginCut_kept (h : Kept r s) (e : Station) : Kept r (beginCut e s) := by
  unfold beginCut
  dsimp only
  split
  · exact chuteStage_kept (separateSpoiled_kept (mapCutter_kept h _) _) _
  · exact failCut_kept (separateSpoiled_kept (mapCutter_kept h _) _) _

/-! ## Movements and feeds -/

/-- A movement begins, as a leg of a feed, to a point that no listed trigger lies before. -/
theorem startMovement_kept (h : Kept r s) (target : Nat) (hf : s.media.feed.isSome = true)
    (ht : WorkLaw s → ∀ e ∈ s.media.stations, target ≤ e.trigger) : Kept r (startMovement target s) :=
  h.ofMedia _ (fun l => l) id fun _ w =>
    ⟨w.rollLaw.order, w.rollLaw.ahead, fun v hv => by cases hv; exact ⟨hf, rfl, ht w⟩⟩

/-- The end of a leg lies at or before every listed trigger (R78, step 1). -/
theorem legEnd_le {m : MediaTransport} (l : RollLaw m) (target : Nat) {e : Station} (he : e ∈ m.stations) :
    legEnd m target ≤ e.trigger := by
  have hle : ∀ a b : Station, b.before a = false → a.trigger ≤ b.trigger := by
    intro a b hb
    simp only [Station.before, Bool.or_eq_false_iff, decide_eq_false_iff_not] at hb
    omega
  have ho := l.order
  have ha := l.ahead
  unfold legEnd
  generalize m.stations = es at he ho ha ⊢
  induction es with
  | nil => cases he
  | cons x es ih =>
    rw [List.pairwise_cons] at ho
    have hx := ha x (List.mem_cons_self ..)
    by_cases ht : x.trigger ≤ target
    · rw [List.find?_cons_of_pos (by simp [hx, ht])]
      rcases List.mem_cons.mp he with rfl | he
      · exact Nat.le_refl _
      · exact hle _ _ (ho.1 e he)
    · rw [List.find?_cons_of_neg (by simp [ht])]
      have hall : ∀ y ∈ x :: es, target < y.trigger := by
        intro y hy
        rcases List.mem_cons.mp hy with rfl | hy
        · omega
        · have := hle _ _ (ho.1 y hy); omega
      rcases List.mem_cons.mp he with rfl | he'
      · split
        · rename_i y hy
          have := List.find?_some hy
          have hm := hall y (List.mem_cons_of_mem _ (List.mem_of_find?_eq_some hy))
          simp at this
          omega
        · omega
      · exact ih he' ho.2 fun y hy => ha y (List.mem_cons_of_mem _ hy)

theorem rest_kept (h : Kept r s) : Kept r (rest s) := mapMedia_kept h _

theorem feedDone_kept (h : Kept r s) (distance : Nat) : Kept r (feedDone distance s) := by
  unfold feedDone
  split
  · exact h
  · exact silenceStart_kept (tell_kept h _) _

theorem endFeed_kept (h : Kept r s) (f : Feed) : Kept r (endFeed f s) := by
  unfold endFeed
  dsimp only
  split
  · exact feedDone_kept (rest_kept h) _
  · split
    · rename_i n hn
      refine completePositioning_kept (rest_kept h) _ (m := n) ?_
      unfold State.positioned at hn
      split at hn
      · rename_i hh
        cases hn
        exact hh
      · cases hn
    · exact rest_kept h
  · exact rest_kept h
  · exact rollNotice_kept (rest_kept h) _

theorem advanceLoop_kept (n : Nat) (h : Kept r s) : Kept r (advanceLoop n s) := by
  induction n generalizing s with
  | zero => exact h
  | succ n ih =>
    have hs : Kept r (s.mapMedia fun m => { m with state := .stoppedAtStation }) := mapMedia_kept h _
    unfold advanceLoop
    split
    · exact h
    · dsimp only
      split
      · exact hs
      · split
        · split
          · exact ih (handScan_kept hs _)
          · exact ih (unlist_kept hs _)
          · exact beginCut_kept hs _
        · split
          · exact rest_kept h
          · split
            · exact endFeed_kept h _
            · rename_i hf _
              exact startMovement_kept h _ (by rw [hf]; rfl) fun w e he => legEnd_le w.rollLaw _ he

theorem advance_kept (h : Kept r s) : Kept r (advance s) := advanceLoop_kept _ h

theorem beginFeed_kept (h : Kept r s) (owner : FeedOwner) (target : Nat) : Kept r (beginFeed owner target s) :=
  advance_kept (mapMedia_kept h _ (hw := fun _ l => ⟨l.order, l.ahead, fun v e => ⟨rfl, (l.moving v e).2⟩⟩))

theorem stopIfHere_kept (h : Kept r s) : Kept r (stopIfHere s) := by
  unfold stopIfHere
  split
  · exact advance_kept h
  · exact h

theorem endIdleStop_kept (h : Kept r s) : Kept r (endIdleStop s) := by
  unfold endIdleStop
  split
  · exact advance_kept h
  · exact h

/-- The print that a trailing cut closes has been imaged. -/
theorem closesPrint_stage {e : Station} {n : Nat} (hc : closesPrint s e = some n) {t : State}
    (hq : t.queue = s.queue) (w : WorkLaw t) : StageAt 2 n t := by
  unfold closesPrint at hc
  split at hc
  · simp only [Option.map_eq_some_iff, Option.filter_eq_some_iff, Option.bind_eq_some_iff] at hc
    obtain ⟨p, ⟨⟨m, -, hp⟩, hi⟩, rfl⟩ := hc
    intro q hm hn
    have h1 := findPrint_of_mem w hm
    have h2 : t.findPrint p.handle = some p := by
      have := findPrint_handle hp
      subst this
      simpa only [State.findPrint, hq] using hp
    rw [hn, h2] at h1
    cases h1
    rw [stage_imaged.mp hi]
  · cases hc

theorem closeCut_kept {t : State} (h : Kept r t) {e : Station} {n : Nat} (hc : closesPrint s e = some n)
    (hq : t.queue = s.queue) : Kept r (closePrint n false t) :=
  closePrint_kept h n false fun w => closesPrint_stage hc hq (h.work w)

theorem saveRoll_queue (s : State) : (saveRoll s).queue = s.queue := by
  unfold saveRoll
  split <;> rfl

theorem cutNotice_queue (news : CutNews) (s : State) : (cutNotice news s).queue = s.queue := by
  obtain ⟨k, hk⟩ := raise_control (.cut news) s
  rw [cutNotice, hk]

theorem completeCut_kept (h : Kept r s) : Kept r (completeCut s) := by
  unfold completeCut
  split
  · exact h
  · dsimp only
    refine advance_kept ?_
    split
    · rename_i n hc
      refine closeCut_kept (cutNotice_kept (mapCutter_kept (unlist_kept (saveRoll_kept (mapRoll_kept h _)) _) _) _) hc ?_
      rw [cutNotice_queue]
      exact saveRoll_queue _
    · exact releaseChecks_kept
        (cutNotice_kept (mapCutter_kept (unlist_kept (saveRoll_kept (mapRoll_kept h _)) _) _) _)

/-! ## Arrival and the end of the roll -/

theorem tailOut_kept (h : Kept r s) : Kept r (tailOut s) := by
  unfold tailOut
  dsimp only
  refine rollNotice_kept (closeAll_kept _ h true fun w n hn p hp he => ?_) _
  obtain ⟨q, hq, rfl⟩ := List.mem_map.mp hn
  obtain ⟨hq, ha⟩ := List.mem_filter.mp hq
  have w := h.work w
  have h1 := findPrint_of_mem w hp
  have h2 := findPrint_of_mem w hq
  rw [he, h2] at h1
  cases h1
  rw [stage_imaged.mp (w.printsLaw.awaiting _ hq ha)]

theorem arrive_kept (h : Kept r s) : Kept r (arrive s) := by
  unfold arrive
  split
  · exact h
  · rename_i m hm
    dsimp only
    refine advance_kept ?_
    have hk : Kept r (s.mapMedia fun x => { x with movement := none, roll := { x.roll with head := m.target } }) :=
      h.ofMedia _ (fun l => l) id fun _ w =>
        ⟨w.rollLaw.order, (w.rollLaw.moving m hm).2.2, fun v hv => by cases hv⟩
    split
    · exact tailOut_kept (releaseChecks_kept hk)
    · exact releaseChecks_kept hk

theorem dropBeyond_kept (h : Kept r s) : Kept r (dropBeyond s) := by
  unfold dropBeyond
  dsimp only
  refine Kept.ofPrints (s := reportDropped _ _ (unlist _ s)) (reportDropped_kept (unlist_kept h _) _ _) _
    (markTailOut (s.media.stations.filter fun e => decide (s.media.roll.tail ≤ e.position))) rfl fun _ p _ => ?_
  unfold markTailOut
  split
  · rename_i hc
    simp only [Bool.and_eq_true] at hc
    exact ⟨rfl, rfl, rfl, rfl, rfl, .inl rfl, fun _ => .inr hc.1, fun _ => Nat.le_refl _⟩
  · exact .refl _

theorem spoilAtRollEnd_kept (h : Kept r s) : Kept r (spoilAtRollEnd s) := by
  unfold spoilAtRollEnd
  split
  · exact h
  · split
    · exact h
    · split
      · rename_i p hp _ _ _ _
        exact spoilActive_kept h (.inl hp) (active_state hp) _
      · exact h

theorem limitTargets_kept (h : Kept r s) : Kept r (s.mapMedia limitTargets) :=
  mapMedia_kept h _ (hw := fun m l => ⟨l.order, l.ahead, fun v hv => by
    simp only [limitTargets, Option.map_eq_some_iff] at hv
    obtain ⟨u, hu, rfl⟩ := hv
    obtain ⟨h1, h2, h3⟩ := l.moving u hu
    exact ⟨by simpa [limitTargets] using h1, h2, fun e he => (Nat.min_le_left _ _).trans (h3 e he)⟩⟩)

theorem rollEnds_kept (h : Kept r s) : Kept r (rollEnds s) := by
  unfold rollEnds
  dsimp only
  exact haltUpdate_kept (rollNotice_kept (saveRoll_kept (mapMedia_kept (releaseChecks_kept (rollRecheck_kept
    (limitTargets_kept (dropBeyond_kept (spoilAtRollEnd_kept (mapMedia_kept h _)))))) _)) _)

/-! ## Starts and the flush advance -/

/-- The entries of a start join a list that has room for them, ahead of H, while nothing moves. -/
theorem listStations_kept (es : List Station) (h : Kept r s) (hl : s.media.stations.length + es.length ≤ 16)
    (ha : ∀ e ∈ es, s.media.roll.head ≤ e.trigger) (hm : WorkLaw r → s.media.movement = none) :
    Kept r (es.foldl (fun t e => listStation e t) s) := by
  induction es generalizing s with
  | nil => exact h
  | cons e es ih =>
    rw [List.length_cons] at hl
    refine ih (listStation_kept h e (by omega) fun w _ => ⟨ha e (List.mem_cons_self ..), fun v hv => ?_⟩) ?_
      (fun x hx => by simpa using ha x (List.mem_cons_of_mem _ hx)) fun w => by simpa using hm w
    · rw [hm w] at hv
      cases hv
    · rw [listStation_media]
      simp only [length_insertStation]
      omega

/-- The triggers of a start lie at or beyond H. -/
theorem startEntries_ahead (s : State) (p : PrintRecord) {e : Station} (he : e ∈ startEntries s p (spanFor s p)) :
    s.media.roll.head ≤ e.trigger := by
  have hs : s.media.roll.head ≤ (spanFor s p).start := Nat.le_max_right _ _
  have hle : (spanFor s p).start ≤ (spanFor s p).stop := Nat.le_add_right _ _
  simp only [startEntries, List.mem_append, List.mem_singleton] at he
  rcases he with (he | he) | rfl
  · split at he
    · rw [List.mem_singleton.mp he]
      simp only [stationAt, triggerOf, Config.cutterOffset]
      omega
    · cases he
  · split at he
    · rw [List.mem_singleton.mp he]
      simp only [stationAt, triggerOf, Config.spectroOffset]
      omega
    · cases he
  · simp only [stationAt, triggerOf, Config.cutterOffset]
    omega

theorem active_none (w : WorkLaw s) (ha : s.active = none) : s.store.openPrint = none := by
  have h := w.printsLaw.active
  have : (s.queue.prints.filter (·.state == .active)) = [] :=
    List.filter_eq_nil_iff.mpr fun p hp => List.find?_eq_none.mp ha p hp
  rw [this] at h
  cases hm : s.store.openPrint with
  | none => rfl
  | some m => rw [hm] at h; simp at h

theorem movement_none (w : WorkLaw s) (hf : s.media.feed = none) : s.media.movement = none := by
  cases hv : s.media.movement with
  | none => rfl
  | some v =>
    have := (w.rollLaw.moving v hv).1
    rw [hf] at this
    cases this

theorem commitStart_kept (h : Kept r s) (p : PrintRecord) (hr : startHasRoom s p (spanFor s p) = true)
    (hf : s.media.feed = none) (ha : s.active = none) : Kept r (commitStart p (spanFor s p) s) := by
  unfold commitStart
  dsimp only
  refine beginFeed_kept (releaseChecks_kept (printNotice_kept (reportDropped_kept (reportDropped_kept
    (rollLowCheck_kept (Kept.ofQueue (listStations_kept _ (unlist_kept ?_ _) ?_ ?_ ?_) _)) _ _) _ _) _ _)) _ _
  · have hk := mapPrint_kept h p.handle (fun q => { q with span := some (spanFor s p), snapshot := some (snapshotFor s p) })
    exact hk.ofMedia _ (fun l => l) id
      (fun _ w => ⟨w.rollLaw.order, w.rollLaw.ahead, w.rollLaw.moving⟩) fun w _ =>
        .inr (.inr (active_none (s := s) (h.work w) ha))
  · simp only [startHasRoom, Config.stationRoom, decide_eq_true_eq] at hr
    simpa only [unlist_media, State.mapMedia_media, State.mapPrint_media, Bool.not_or] using hr
  · exact fun e he => startEntries_ahead s p he
  · exact fun w => movement_none (s := s) (h.work w) hf

theorem endFlush_kept (h : Kept r s) : Kept r (endFlush s) := by
  unfold endFlush
  split
  · exact h.ofQueue _
  · exact h

theorem startStep_kept {t : State} (h : Kept r s) (ht : startStep s = some t) : Kept r t := by
  unfold startStep at ht
  split at ht
  · rename_i hs
    simp only [State.startPossible, State.transportFree, State.noPrintHolds, State.feeding, Bool.and_eq_true,
      Option.isNone_iff_eq_none, Bool.not_eq_true', Option.isSome_eq_false_iff] at hs
    split at ht
    · cases ht
    · dsimp only at ht
      split at ht
      · split at ht
        · cases ht
          exact commitStart_kept h _ ‹_› hs.1.2.1.2 hs.2.1
        · cases ht
      · cases ht
        exact returnToWaiting_kept h _ _
  · cases ht

theorem flushStep_kept {t : State} (h : Kept r s) (ht : flushStep s = some t) : Kept r t := by
  unfold flushStep at ht
  split at ht
  · cases ht
    exact beginFeed_kept h _ _
  · cases ht

theorem settleLoop_kept (n : Nat) (h : Kept r s) : Kept r (settleLoop n s) := by
  induction n generalizing s with
  | zero => exact haltUpdate_kept h
  | succ n ih =>
    have hh := haltUpdate_kept h
    unfold settleLoop
    dsimp only
    split
    · exact ih (startStep_kept hh ‹_›)
    · split
      · exact ih (flushStep_kept hh ‹_›)
      · exact endFlush_kept hh

theorem settle_kept (h : Kept r s) : Kept r (settle s) := settleLoop_kept _ h

theorem finish_kept (h : Kept r s) : Kept r (finish s) := refreshPanel_kept (settle_kept h)

end Sys2Proof.Machine
end

