-- ==== Sys2Proof/Laws/KeptCommands.lean ====
section
/-! SUPPORT. What the operations of the requests and the events keep: one lemma each. An operation that writes what
only its own request writes keeps the five laws, and its lemma says so. -/

namespace Sys2Proof.Machine

set_option Elab.async false

open Sys2Proof

variable {r s : State}

/-! ## Control requests that keep what is stored -/

theorem clearLatchRequest_kept (h : Kept r s) (tag : Nat) : Kept r (clearLatchRequest tag s) := by
  unfold clearLatchRequest
  split
  · exact reply_kept h _ _ _ _
  · exact reply_kept (finish_kept (mapEngine_kept h _)) _ _ _ _

theorem clearFaultCounters_kept (h : Kept r s) : Kept r (clearFaultCounters s) := h.ofLinks _

theorem drainSendList_kept (h : Kept r s) (n : Nat) : Kept r (drainSendList n s) := by
  have hd : Kept r (s.mapControl fun k => { k with sendList := k.sendList.drop n }) :=
    h.ofControl _ rfl (fun _ => rfl) (fun hl => by simp only [List.length_drop]; omega) id
  unfold drainSendList
  dsimp only
  split
  · exact flushDeferred_kept hd
  · exact hd

/-! ## Prints -/

/-- The handles that the search of R4 visits. -/
theorem nextHandle_iterate (k : Nat) {h : Nat} (hl : 1 ≤ h) (hu : h ≤ 255) :
    nextHandle^[k] h = (h - 1 + k) % 255 + 1 := by
  induction k with
  | zero => simp only [Function.iterate_zero, id]; omega
  | succ k ih =>
    rw [Function.iterate_succ_apply', ih]
    unfold nextHandle
    split <;> omega

theorem nextHandle_iterate_above (k : Nat) {h : Nat} (hu : 255 < h) : nextHandle^[k] h = h + k := by
  induction k with
  | zero => rfl
  | succ k ih =>
    rw [Function.iterate_succ_apply', ih]
    unfold nextHandle
    split <;> omega

/-- The nine handles that follow one are different. -/
theorem nextHandle_nodup (last : Nat) : ((List.range 9).map fun k => nextHandle^[k] (nextHandle last)).Nodup := by
  refine List.Nodup.map_on (fun i hi j hj e => ?_) List.nodup_range
  have hi := List.mem_range.mp hi
  have hj := List.mem_range.mp hj
  have hl : 1 ≤ nextHandle last := by unfold nextHandle; split <;> omega
  by_cases hu : nextHandle last ≤ 255
  · simp only [nextHandle_iterate _ hl hu] at e
    omega
  · simp only [nextHandle_iterate_above _ (Nat.lt_of_not_le hu)] at e
    omega

/-- The search ends at a free handle, or has visited used ones alone. -/
theorem freeHandle_used {used : List Nat} (n : Nat) {h : Nat} (hm : freeHandle used n h ∈ used) :
    ∀ k ≤ n, nextHandle^[k] (nextHandle h) ∈ used := by
  induction n generalizing h with
  | zero =>
    intro k hk
    obtain rfl := Nat.le_zero.mp hk
    exact hm
  | succ n ih =>
    unfold freeHandle at hm
    split at hm
    · rename_i hu
      intro k hk
      cases k with
      | zero => simpa using hu
      | succ k =>
        rw [Function.iterate_succ_apply]
        exact ih hm k (by omega)
    · rename_i hu
      exact absurd hm (by simpa using hu)

/-- A new print's handle is no other print's (R4). -/
theorem freeHandle_fresh {used : List Nat} (hl : used.length ≤ 8) (last : Nat) : freeHandle used 9 last ∉ used := by
  intro hm
  have hs : ((List.range 9).map fun k => nextHandle^[k] (nextHandle last)) ⊆ used := by
    intro x hx
    obtain ⟨k, hk, rfl⟩ := List.mem_map.mp hx
    exact freeHandle_used 9 hm k (by have := List.mem_range.mp hk; omega)
  have := ((nextHandle_nodup last).subperm hs).length_le
  simp at this
  omega

theorem Sound.kept {t : State} (h : Sound r s) (g : Kept s t) : Sound r t := h.trans g.toSound

/-- A submission adds one record to a queue that has room: a print that no law counts yet. -/
theorem enqueue_sound (h : Sound r s) (kind : PrintKind) (d : PrintDescription) (refSet : Option Nat)
    (hl : s.queue.prints.length < 8)
    (hk : ∀ id, d.editionId = some id → refSet.isSome = true ∧ id ∈ s.registry.table.map (·.id))
    (ho : WorkLaw s → ∀ e ∈ s.registry.table, d.editionId = some e.id → refSet = some e.refSet) :
    Sound r (enqueue kind d refSet s) := by
  unfold enqueue
  dsimp only
  refine Sound.kept ?_ (releaseChecks_kept (printNotice_kept (.refl _) _ _))
  have hf := freeHandle_fresh (used := s.queue.prints.map (·.handle)) (by simpa using Nat.le_of_lt hl) s.queue.lastHandle
  generalize freeHandle (s.queue.prints.map (·.handle)) 9 s.queue.lastHandle = n at hf
  refine h.trans ⟨⟨rfl, rfl, fun _ => rfl, fun _ => rfl, fun _ => .refl _, List.prefix_refl _, List.prefix_refl _,
    ⟨id, id, id, fun l => { l with prints := ?_ }, id⟩⟩, fun w => ⟨w.rollLaw, ?_, ?_⟩, fun w x l => ⟨l.index, ?_, l.tied⟩, fun _ x l => ?_⟩
  · simp
    omega
  · have k := w.printsLaw
    refine ⟨?_, ?_, k.printing, k.positioning, fun q hq => ?_, fun q hq => ?_, ?_⟩
    · rw [List.map_append, List.nodup_append]
      refine ⟨k.handles, by simp, fun a ha b hb e => hf ?_⟩
      simp only [newPrint, List.map_cons, List.map_nil, List.mem_singleton] at hb
      rwa [← hb, ← e]
    · rw [List.filter_append, List.map_append, k.active]
      simp [newPrint]
    · rcases List.mem_append.mp hq with hq | hq
      · exact k.undecided q hq
      · rw [List.mem_singleton.mp hq]
        exact fun _ => rfl
    · rcases List.mem_append.mp hq with hq | hq
      · exact k.awaiting q hq
      · rw [List.mem_singleton.mp hq]
        exact fun e => by cases e
    · have := k.places
      rw [List.filter_append]
      simpa [newPrint, PrintRecord.live] using this
  · have k := w.editionLaw
    have hz : ∀ j id, flying [newPrint n kind d refSet] j id = 0 := fun j id => by
      simp [flying, newPrint, PrintRecord.inFlight, PrintRecord.live]
    refine ⟨k.ids, fun q hq => ?_, fun e he => ?_, k.limits⟩
    · rcases List.mem_append.mp hq with hq | hq
      · exact k.known q hq
      · rw [List.mem_singleton.mp hq]
        exact hk
    · rw [flying_append, flying_append, hz, hz]
      exact k.counts e he
  · intro q hq e he hi
    rcases List.mem_append.mp hq with hq | hq
    · exact l.own q hq e he hi
    · rw [List.mem_singleton.mp hq] at hi ⊢
      exact ho w e he hi
  · refine ⟨by simp; omega, l.order, fun i => (l.ready i).trans ?_, fun d => (l.within d).imp_right fun h => ?_⟩
    · constructor
      · rintro ⟨q, hq, k⟩
        exact ⟨q, List.mem_append_left _ hq, k⟩
      · rintro ⟨q, hq, k⟩
        rcases List.mem_append.mp hq with hq | hq
        · exact ⟨q, hq, k⟩
        · rw [List.mem_singleton.mp hq] at k
          exact absurd k.2 (by simp [newPrint])
    · refine Nat.le_trans (Nat.le_of_eq ?_) h
      rw [committed_shares, committed_shares]
      simp [share, newPrint]

theorem submitRequest_sound (h : Kept r s) (tag : Nat) (d : PrintDescription) : Sound r (submitRequest tag d s) := by
  unfold submitRequest
  dsimp only
  split
  · exact (reply_kept h _ _ _ _).toSound
  · rename_i hl
    have hl : s.queue.prints.length < 8 := by simpa [Config.queueRoom] using hl
    split
    · exact (reply_kept h _ _ _ _).toSound
    · split
      · rename_i id hid
        split
        · exact (reply_kept h _ _ _ _).toSound
        · rename_i e he
          split
          · refine (enqueue_sound h.toSound _ _ _ hl (fun id' hid' => ⟨rfl, ?_⟩) fun w d hd hid' => ?_).kept
              (reply_kept (finish_kept (.refl _)) _ _ _ _)
            · rw [hid] at hid'
              cases hid'
              refine List.mem_map.mpr ⟨e, List.mem_of_find?_eq_some he, ?_⟩
              simpa using List.find?_some he
            · have hf := findEdition_of_mem w hd
              rw [hid] at hid'
              cases hid'
              rw [he] at hf
              cases hf
              rfl
          · exact (reply_kept h _ _ _ _).toSound
      · rename_i hid
        refine (enqueue_sound h.toSound _ _ _ hl (fun id' hid' => ?_) fun _ e _ hid' => ?_).kept
          (reply_kept (finish_kept (.refl _)) _ _ _ _)
        all_goals
          rw [hid] at hid'
          cases hid'
      · exact (reply_kept h _ _ _ _).toSound

theorem releaseRequest_kept (h : Kept r s) (tag n : Nat) : Kept r (releaseRequest tag n s) := by
  unfold releaseRequest
  split
  · exact reply_kept h _ _ _ _
  · split
    · exact reply_kept (finish_kept (releaseChecks_kept (mapPrint_kept h _ _))) _ _ _ _
    · exact reply_kept h _ _ _ _

/-- A print that waits leaves the queue. -/
theorem dropWaiting_kept (h : Kept r s) {p : PrintRecord} (hp : s.findPrint p.handle = some p)
    (hs : p.state = .waiting) : Kept r (s.dropPrint p.handle) := by
  have hd := replaced_dropAt (p := p) (n := p.handle) s.queue.prints rfl
  have hi : p.inFlight = false := by simp [PrintRecord.inFlight, PrintRecord.live, hs]
  have ht : (s.dropPrint p.handle).registry.table = mapEntries p id s.registry.table := by
    simp only [mapEntries, State.dropPrint_registry]
    split <;> simp
  refine h.ofWork (dropPrint_held h.toHeld _) (fun w => ?_) (fun w m k => ?_)
    (fun w => ties_change w hp id (c := []) (by simpa using hd) ht (by simp) .refl (by simp)) fun w =>
    supply_change w hp (c := []) (by simpa using hd) (by simp) (.leaves (by simp) (by simp)) (fun _ => rfl)
      fun _ => .inl (by simp)
  · refine work_change w hp id (c := []) (by simpa using hd) ht (by simp)
      (fun e _ _ _ _ h3 h4 => follows_none hi h3 h4) (.inr rfl) (.stays (by simp [actives, hs]) rfl)
      w.printsLaw.printing w.printsLaw.positioning (by simp) ?_ w.rollLaw
    · have := w.printsLaw.places
      simpa [State.liveCount, live_one, hs] using this
  · exact forward_change w hp (c := []) (by simpa using hd) (by simp) m k

/-- A READY print leaves the queue, its start and its place in its edition given back. -/
theorem dropReady_kept (h : Kept r s) {p : PrintRecord} (hp : s.findPrint p.handle = some p) (hs : p.state = .ready) :
    Kept r (((abandonIfPositioned p.handle s).lowerInFlight p).dropPrint p.handle) := by
  have hu := abandonIfPositioned_kept h p.handle
  obtain ⟨q, hq, hpq, hst, -⟩ := abandonIfPositioned_find hp
  generalize abandonIfPositioned p.handle s = u at hu hq ⊢
  rw [hs] at hst
  have hd := replaced_dropAt (p := q) (n := p.handle) u.queue.prints (findPrint_handle hq)
  refine hu.ofWork (dropPrint_held (mapEditionOf_held hu.toHeld _ _) _) (fun w => ?_) (fun w m k => ?_) (fun w =>
    ties_change w hq (fun e => e.mapInFlight p.kind (· - 1)) (c := []) (by simpa [State.lowerInFlight] using hd)
      (by simp [State.lowerInFlight, mapEntries_congr hpq]) (by simp) (fun e => mapInFlight_tieKept e _ _)
      (by simp [State.lowerInFlight])) fun w =>
    supply_change w hq (c := []) (by simpa [State.lowerInFlight] using hd) (by simp)
      (.leaves (by simp [State.lowerInFlight]) (by simp))
      (fun d => by simp [State.lowerInFlight, State.usable, State.channel]) fun _ => .inl (by simp)
  · have ho := w.printsLaw.undecided q (findPrint_mem hq) (.inl (by simp [PrintRecord.imaged, hst]))
    have hl := w.printsLaw.places
    refine work_change w hq (fun e => e.mapInFlight p.kind (· - 1)) (c := []) (by simpa [State.lowerInFlight] using hd)
      (by simp [State.lowerInFlight, mapEntries_congr hpq]) (by simp) ?_ (.inr rfl)
      (.stays (by simp [actives, hst]) (by simp [State.lowerInFlight]))
      (by simpa [State.lowerInFlight] using w.printsLaw.printing)
      (by simpa [State.lowerInFlight] using w.printsLaw.positioning) (by simp) ?_
      (by simpa [State.lowerInFlight] using w.rollLaw)
    · intro e _ hid h1 h2 h3 h4
      rw [← hpq.kind]
      exact follows_lower (inFlight_ready hst ho) (by simp) hid h1 h2 h3 h4
    · simp only [live_one, hst]
      simp [State.lowerInFlight, State.liveCount]
      omega
  · exact forward_change w hq (c := []) (by simpa [State.lowerInFlight] using hd) (by simp) m k

theorem removePrint_kept (h : Kept r s) {p : PrintRecord} (hp : s.findPrint p.handle = some p)
    (hs : p.state = .waiting ∨ p.state = .ready) : Kept r (removePrint p s) := by
  unfold removePrint
  dsimp only
  by_cases hr : p.state = .ready
  · simp only [hr, if_true]
    exact releaseChecks_kept (earlyFullCheck_kept (raise_kept (dropReady_kept h hp hr) _))
  · simp only [hr, if_false]
    exact releaseChecks_kept (raise_kept (dropWaiting_kept h hp (hs.resolve_right hr)) _)

theorem cancelRequest_kept (h : Kept r s) (tag n : Nat) : Kept r (cancelRequest tag n s) := by
  unfold cancelRequest
  split
  · exact reply_kept h _ _ _ _
  · rename_i p hp
    have hn := findPrint_handle hp
    subst hn
    split
    · exact reply_kept (finish_kept (removePrint_kept h hp (.inl ‹_›))) _ _ _ _
    · exact reply_kept (finish_kept (removePrint_kept h hp (.inr ‹_›))) _ _ _ _
    · exact reply_kept (finish_kept (spoilActive_kept h (.inr hp) ‹_› _)) _ _ _ _
    all_goals exact reply_kept h _ _ _ _

theorem printQueryReply_kept (h : Kept r s) (tag : Nat) (n : Option Nat) : Kept r (printQueryReply tag n s) := by
  unfold printQueryReply
  split
  · exact reply_kept h _ _ _ _
  · split <;> exact reply_kept h _ _ _ _

/-! ## Ink and meter -/

theorem clearChannelRequest_kept (h : Kept r s) (tag channel : Nat) : Kept r (clearChannelRequest tag channel s) := by
  unfold clearChannelRequest
  split
  · exact reply_kept h _ _ _ _
  · split
    · exact reply_kept (finish_kept (endRefill_kept h _)) _ _ _ _
    · exact reply_kept h _ _ _ _

theorem inkQueryReply_kept (h : Kept r s) (tag : Nat) (n : Option Nat) : Kept r (inkQueryReply tag n s) := by
  unfold inkQueryReply
  split
  · exact reply_kept h _ _ _ _
  · split <;> exact reply_kept h _ _ _ _

theorem meterQueryReply_kept (h : Kept r s) (tag : Nat) (n : Option Nat) : Kept r (meterQueryReply tag n s) := by
  unfold meterQueryReply
  split
  · exact reply_kept h _ _ _ _
  · split <;> exact reply_kept h _ _ _ _

/-- A new colour code keeps the five laws and the waiting commands. -/
theorem recolour_laws (c : Chan) (code : Nat) : LawsKept s (recolour c code s) := by
  have hm : LawsKept s (s.mapChannel c fun ch => { ch with colourCode := code }) := by
    refine ⟨fun l d => ⟨?_, (l d).2⟩, id, id, fun l => { l with }, id⟩
    by_cases hd : c = d
    · subst hd
      simpa [State.channel] using
        ChannelLaw.mk (ch := { s.ink.channels[c] with colourCode := code }) (l c).1.parcels
          ⟨(l c).1.pump.fits, (l c).1.pump.still⟩
    · have hv : c.val ≠ d.val := fun e => hd (Fin.ext e)
      simpa [State.channel, Vector.getElem_set, hv] using (l d).1
  unfold recolour
  dsimp only
  split
  · exact hm
  · split
    · exact hm
    · exact hm.trans (applyJudgement_kept (.refl _) _ _ _ _).laws

/-! ## Media and cuts -/

theorem emptyList_kept (h : Kept r s) (reason : DropReason) : Kept r (emptyList reason s) :=
  reportDropped_kept (unlist_kept h _) _ _

/-- The roll-low flag's action changes the flag and the control link alone. -/
theorem rollLowCheck_frame (s : State) :
    ∃ k f, rollLowCheck s = { s with media := { s.media with lowFlag := f }, control := k } := by
  unfold rollLowCheck
  split
  · obtain ⟨k, hk⟩ := raise_control (.roll .low s.media.rollState s.media.roll.head s.media.roll.tail s.media.roll.alloc)
      (s.mapMedia fun m => { m with lowFlag := .sent })
    exact ⟨k, _, hk⟩
  · exact ⟨_, _, rfl⟩

theorem reportDropped_control (reason : DropReason) (es : List Station) (s : State) :
    ∃ k, reportDropped reason es s = { s with control := k } := by
  induction es generalizing s with
  | nil => exact ⟨_, rfl⟩
  | cons e es ih =>
    obtain ⟨k, hk⟩ := raise_control (.cut (.dropped e.position e.chute reason)) s
    obtain ⟨k', hk'⟩ := ih (cutNotice (.dropped e.position e.chute reason) s)
    refine ⟨k', ?_⟩
    rw [reportDropped, List.foldl_cons]
    rw [reportDropped] at hk'
    rw [hk', cutNotice, hk]

/-- Emptying the list changes the list and the control link alone. -/
theorem emptyList_frame (reason : DropReason) (s : State) :
    ∃ k, emptyList reason s = { s with media := { s.media with stations := [] }, control := k } := by
  obtain ⟨k, hk⟩ := reportDropped_control reason (s.media.stations.filter fun e => e.kind == .cutServer)
    (unlist (fun _ => true) s)
  refine ⟨k, ?_⟩
  rw [emptyList, hk]
  simp [unlist, State.mapMedia]

theorem emptyList_low_frame (reason : DropReason) (s : State) :
    ∃ k f, emptyList reason (rollLowCheck s) =
      { s with media := { s.media with lowFlag := f, stations := [] }, control := k } := by
  obtain ⟨k, f, hk⟩ := rollLowCheck_frame s
  obtain ⟨k', hk'⟩ := emptyList_frame reason (rollLowCheck s)
  refine ⟨k', f, ?_⟩
  rw [hk', hk]

/-- A new base is given to a roll that nothing is in use on: the list is emptied and H stands at its new place. -/
theorem newBase_kept (h : Kept r s) (g : RollGeometry) (reason : DropReason) (news : RollNews)
    (hu : s.rollInUse = false) : Kept r (newBase reason news (setRoll g s)) := by
  have hf : s.media.feed = none := by
    simp only [State.rollInUse, State.feeding, Bool.or_eq_false_iff, Option.isSome_eq_false_iff,
      Option.isNone_iff_eq_none] at hu
    exact hu.2
  unfold newBase
  refine rollNotice_kept (releaseChecks_kept (rollRecheck_kept (saveRoll_kept ?_))) _
  have hd : Held r (emptyList reason (rollLowCheck (setRoll g s))) :=
    (mapMedia_held (s := s) h.toHeld (fun m => { m with rollState := .verified, roll := g, lowFlag := .armed })).trans
      (emptyList_kept (rollLowCheck_kept (.refl (setRoll g s))) reason).toHeld
  obtain ⟨k, f, hk⟩ := emptyList_low_frame reason (setRoll g s)
  rw [hk] at hd ⊢
  refine h.ofWork hd (fun w => ?_) (fun _ _ _ x => x) (fun _ => ties_same) fun _ => supply_same
  refine w.media (m' := { s.media with rollState := .verified, roll := g, lowFlag := f, stations := [] })
    (fun _ => ⟨List.Pairwise.nil, fun e he => (by cases he), fun v hv => ?_⟩) (.inl rfl)
  have hv : s.media.movement = some v := hv
  rw [movement_none w hf] at hv
  cases hv

theorem rollLoadRequest_kept (h : Kept r s) (tag mediaType width length serial : Nat) :
    Kept r (rollLoadRequest tag mediaType width length serial s) := by
  unfold rollLoadRequest
  split
  · exact reply_kept h _ _ _ _
  · split
    · exact reply_kept h _ _ _ _
    · split
      · exact reply_kept h _ _ _ _
      · exact reply_kept (finish_kept (haltUpdate_kept (newBase_kept h _ _ _ (by simpa using ‹¬s.rollInUse = true›))))
          _ _ _ _

theorem rollConfirmRequest_kept (h : Kept r s) (tag : Nat) : Kept r (rollConfirmRequest tag s) := by
  unfold rollConfirmRequest
  split
  · exact reply_kept h _ _ _ _
  · split
    · exact reply_kept h _ _ _ _
    · exact reply_kept (finish_kept (haltUpdate_kept (newBase_kept h _ _ _ (by simpa using ‹¬s.rollInUse = true›))))
        _ _ _ _

theorem moveRequest_kept (h : Kept r s) (tag distance : Nat) : Kept r (moveRequest tag distance s) := by
  unfold moveRequest
  dsimp only
  split
  · exact reply_kept h _ _ _ _
  · split
    · exact reply_kept h _ _ _ _
    · split
      · exact reply_kept h _ _ _ _
      · split
        · exact reply_kept h _ _ _ _
        · exact reply_kept (finish_kept (beginFeed_kept h _ _)) _ _ _ _

theorem clearCutter_kept (h : Kept r s) : Kept r (clearCutter s) := mapCutter_kept h _

theorem unverifyRoll_kept (h : Kept r s) : Kept r (unverifyRoll s) := saveRoll_kept (mapMedia_kept h _)

theorem clearTransport_kept (h : Kept r s) : Kept r (clearTransport s) := by
  unfold clearTransport
  dsimp only
  split
  · exact releaseChecks_kept (haltUpdate_kept (rollNotice_kept (unverifyRoll_kept
      (mapMedia_kept (clearCutter_kept h) _)) _))
  · exact releaseChecks_kept (haltUpdate_kept (rollNotice_kept (unverifyRoll_kept (mapMedia_kept h _)) _))

theorem clearTransportRequest_kept (h : Kept r s) (tag : Nat) : Kept r (clearTransportRequest tag s) := by
  unfold clearTransportRequest
  split
  · exact reply_kept h _ _ _ _
  · split
    · exact reply_kept h _ _ _ _
    · exact reply_kept (finish_kept (stopIfHere_kept (clearTransport_kept h))) _ _ _ _

/-- A server cut is listed where the list has room, ahead of H and of a movement under way. -/
theorem listServerCut_kept (h : Kept r s) (position : Nat) (chute : Chute) (hl : s.listFull = false)
    (hw : WorkLaw s → s.media.roll.head ≤ triggerOf .cutServer position ∧
      ∀ v, s.media.movement = some v → v.target ≤ triggerOf .cutServer position) :
    Kept r (listServerCut position chute s) := by
  have hl : s.media.stations.length < 16 := by simpa [State.listFull, Config.stationRoom] using hl
  exact finish_kept (stopIfHere_kept (listStation_kept h _ hl fun _ => hw))

theorem cutAtRequest_kept (h : Kept r s) (tag position chute : Nat) : Kept r (cutAtRequest tag position chute s) := by
  unfold cutAtRequest
  dsimp only
  split
  · exact reply_kept h _ _ _ _
  · split
    · exact reply_kept h _ _ _ _
    · split
      · exact reply_kept h _ _ _ _
      · rename_i hh
        split
        · exact reply_kept h _ _ _ _
        · split
          · exact reply_kept h _ _ _ _
          · split
            · exact reply_kept h _ _ _ _
            · rename_i hm
              split
              · exact reply_kept h _ _ _ _
              · refine reply_kept (listServerCut_kept h _ _ (by simpa using ‹¬s.listFull = true›) fun w =>
                  ⟨by omega, fun v hv => ?_⟩) _ _ _ _
                have := (w.rollLaw.moving v hv).2.1
                simp only [State.movementHolds, hv, Option.any_some, decide_eq_true_eq] at hm
                omega

/-- A cut at the cutter line has its trigger at H (R68, R101). -/
theorem cutterPoint_ahead (s : State) : s.media.roll.head ≤ triggerOf .cutServer s.cutterPoint := by
  unfold triggerOf State.cutterPoint
  exact le_tsub_add

theorem cutNowRequest_kept (h : Kept r s) (tag chute : Nat) : Kept r (cutNowRequest tag chute s) := by
  unfold cutNowRequest
  dsimp only
  split
  · exact reply_kept h _ _ _ _
  · split
    · exact reply_kept h _ _ _ _
    · split
      · exact reply_kept h _ _ _ _
      · split
        · exact reply_kept h _ _ _ _
        · rename_i hf
          have hf : s.media.feed = none := by
            simp only [State.feeding, not_or, Option.not_isSome_iff_eq_none] at hf
            exact hf.1
          repeat' split
          all_goals first
            | exact reply_kept h _ _ _ _
            | refine reply_kept (listServerCut_kept h _ _ (by simpa using ‹¬s.listFull = true›) fun w =>
                ⟨?_, fun v hv => ?_⟩) _ _ _ _
          · exact cutterPoint_ahead s
          · rw [movement_none w hf] at hv
            cases hv

/-! ## Colour -/

/-- A reference set written anew keeps the five laws. -/
theorem writeSet_laws (i : Fin 32) (g : RefSet) : LawsKept s (writeSet i g s) :=
  ⟨id, id, id, fun l => { l with }, id⟩

/-- An OPEN set written anew keeps the ties: no edition holds it (R109). -/
theorem writeSet_ties {x : Nat → Prop} (l : TiesBut x s) (i : Fin 32) (g : RefSet)
    (ho : (s.colour.sets[i]).mode = .opened) : TiesBut x (writeSet i g s) := by
  refine l.pass (fun q m => ⟨q, m, rfl, rfl⟩) (fun d m => ⟨d, m, .refl d⟩) fun j hj => ?_
  simp only [State.refSet, writeSet, State.mapColour_colour, Vector.getElem?_set] at hj ⊢
  split
  · rename_i hi
    subst hi
    exact absurd ho (by simpa using hj)
  · exact hj

/-- A set sealed with its contents. -/
theorem sealSet_kept (h : Kept r s) (i : Fin 32) :
    Kept r (writeSet i { s.colour.sets[i] with mode := .sealed } s) := by
  refine h.ofColour _ (fun d => ?_) fun x l =>
    l.pass (fun q m => ⟨q, m, rfl, rfl⟩) (fun d m => ⟨d, m, .refl d⟩) fun j hj => ?_
  case refine_2 =>
    simp only [State.refSet, Vector.getElem?_set, Fin.getElem_fin] at hj ⊢
    split
    · simp
    · exact hj
  by_cases hd : i = d
  · subst hd
    have hk : SetKept s.colour.sets[i] { s.colour.sets[i] with mode := .sealed } :=
      ⟨rfl, rfl, rfl, fun e => by rw [← e]⟩
    simpa using hk
  · have hv : i.val ≠ d.val := fun e => hd (Fin.ext e)
    simpa [Vector.getElem_set, hv] using SetKept.refl _

theorem referenceSealRequest_kept (h : Kept r s) (tag index : Nat) : Kept r (referenceSealRequest tag index s) := by
  unfold referenceSealRequest
  split
  · exact reply_kept h _ _ _ _
  · dsimp only
    split
    · exact reply_kept h _ _ _ _
    · exact reply_kept (sealSet_kept h _) _ _ _ _

theorem referenceQueryRequest_kept (h : Kept r s) (tag index : Nat) : Kept r (referenceQueryRequest tag index s) := by
  unfold referenceQueryRequest
  split <;> exact reply_kept h _ _ _ _

theorem calibrateRequest_kept (h : Kept r s) (tag : Nat) : Kept r (calibrateRequest tag s) := by
  unfold calibrateRequest
  split
  · exact reply_kept h _ _ _ _
  · exact reply_kept (sendCalibrate_kept (mapColour_kept h _) _) _ _ _ _

/-! ## Editions -/

/-- A new entry joins a table that has room and no such id: no print is counted for it. -/
theorem addEdition_kept (h : Kept r s) (e : Edition) (hl : s.registry.table.length < 64)
    (hn : s.findEdition e.id = none) (hz : e.inFlight = 0 ∧ e.apInFlight = 0) (hr : e.refSet < 32)
    (ha : e.accepted = 0 ∧ e.apAccepted = 0) : Kept r (addEdition e s) := by
  have hne : ∀ d ∈ s.registry.table, d.id ≠ e.id := fun d hd x => by
    have := List.find?_eq_none.mp hn d hd
    simp [x] at this
  refine h.ofWork (h.toHeld.trans ⟨rfl, rfl, fun _ => rfl, fun _ => rfl, fun _ => .refl _, List.prefix_refl _,
    List.prefix_refl _, ⟨id, id, id, fun l => { l with editions := ?_ }, id⟩⟩) (fun w => ⟨w.rollLaw, w.printsLaw, ?_⟩)
    (fun _ _ _ x => x) (fun w x l => ?_) fun _ => supply_same
  · simp only [addEdition, List.length_append, List.length_singleton]
    omega
  · have k := w.editionLaw
    have hf : ∀ j, flying s.queue.prints j e.id = 0 := fun j => by
      simp only [flying, List.length_eq_zero_iff, List.filter_eq_nil_iff]
      intro p hp hx
      simp only [Bool.and_eq_true, beq_iff_eq] at hx
      obtain ⟨d, hd, hid⟩ := List.mem_map.mp (k.known p hp e.id hx.2).2
      exact hne d hd hid
    refine ⟨?_, fun p hp i hi => ?_, fun d hd => ?_, fun d hd => ?_⟩
    · simp only [addEdition, List.map_append, List.map_cons, List.map_nil]
      rw [List.nodup_append]
      refine ⟨k.ids, by simp, fun a ha b hb x => ?_⟩
      obtain ⟨d, hd, rfl⟩ := List.mem_map.mp ha
      rw [List.mem_singleton.mp hb] at x
      exact hne d hd x
    · refine ⟨(k.known p hp i hi).1, ?_⟩
      simp only [addEdition, List.map_append]
      exact List.mem_append_left _ (k.known p hp i hi).2
    · rcases List.mem_append.mp hd with hd | hd
      · exact k.counts d hd
      · rw [List.mem_singleton.mp hd, hz.1, hz.2]
        exact ⟨(hf _).symm, (hf _).symm⟩
    · rcases List.mem_append.mp hd with hd | hd
      · exact k.limits d hd
      · rw [List.mem_singleton.mp hd, hz.1, hz.2, ha.1, ha.2]
        exact ⟨Nat.zero_le _, Nat.zero_le _⟩
  · refine ⟨fun d hd => ?_, fun p hp d hd hi => ?_, fun d hd k => ?_⟩
    · rcases List.mem_append.mp hd with hd | hd
      · exact l.index d hd
      · rw [List.mem_singleton.mp hd]
        exact hr
    · rcases List.mem_append.mp hd with hd | hd
      · exact l.own p hp d hd hi
      · rw [List.mem_singleton.mp hd] at hi
        obtain ⟨f, hf, hid⟩ := List.mem_map.mp (w.editionLaw.known p hp e.id hi).2
        exact absurd hid (hne f hf)
    · rcases List.mem_append.mp hd with hd | hd
      · exact l.tied d hd k
      · rw [List.mem_singleton.mp hd, holdsSet_own, ha.1, ha.2] at k
        exact absurd k.2 (Nat.lt_irrefl 0)

theorem editionOpenRequest_kept (h : Kept r s) (tag id : Nat) (title : List Byte)
    (limit apLimit refSet mediaType : Nat) :
    Kept r (editionOpenRequest tag id title limit apLimit refSet mediaType s) := by
  unfold editionOpenRequest
  split
  · exact reply_kept h _ _ _ _
  · rename_i hir
    have hr : refSet < 32 := by
      have : editionInRange id title limit apLimit refSet mediaType = true := by simpa using hir
      simp only [editionInRange, Bool.and_eq_true, decide_eq_true_eq] at this
      omega
    split
    · exact reply_kept h _ _ _ _
    · rename_i hn
      have hn : s.findEdition id = none := by simpa using hn
      split
      · exact reply_kept h _ _ _ _
      · split
        · exact reply_kept h _ _ _ _
        · rename_i hl
          have hl : s.registry.table.length < 64 := by simpa [Config.editionRoom] using hl
          split
          · exact reply_kept h _ _ _ _
          · split
            · exact reply_kept h _ _ _ _
            · exact reply_kept (finish_kept (editionNotice_kept (releaseChecks_kept (addEdition_kept h _ hl hn ⟨rfl, rfl⟩
                hr ⟨rfl, rfl⟩)) _ _)) _ _ _ _

theorem editionHoldRequest_kept (h : Kept r s) (tag id : Nat) : Kept r (editionHoldRequest tag id s) := by
  unfold editionHoldRequest
  split
  · exact reply_kept h _ _ _ _
  · rename_i e he
    split
    · refine reply_kept (finish_kept (haltUpdate_kept (holdEffects_kept (mapEdition_kept h _ _ fun d hd => ?_) _))) _ _ _ _
      rw [he] at hd
      cases hd
      exact ⟨rfl, rfl, rfl, rfl, rfl, rfl, rfl, rfl, fun _ => by simp [*]⟩
    · exact reply_kept h _ _ _ _

theorem editionResumeRequest_kept (h : Kept r s) (tag id : Nat) : Kept r (editionResumeRequest tag id s) := by
  unfold editionResumeRequest
  split
  · exact reply_kept h _ _ _ _
  · rename_i e he
    split
    · refine reply_kept (finish_kept (editionNotice_kept (releaseChecks_kept (mapEdition_kept h _ _ fun d hd => ?_))
        _ _)) _ _ _ _
      rw [he] at hd
      cases hd
      exact ⟨rfl, rfl, rfl, rfl, rfl, rfl, rfl, rfl, fun _ => by simp [*]⟩
    · exact reply_kept h _ _ _ _

/-- An id joins a closed-id list that has room. -/
theorem closeEdition_kept (h : Kept r s) (id : Nat) (hl : s.registry.closedIds.length < 1024) :
    Kept r (closeEdition id s) := by
  unfold closeEdition
  dsimp only
  have hm := mapEdition_kept h id fun e =>
    { e with state := .closed, holdCause := none, closedDay := some (s.clock.day.getD 0) }
  refine hm.same (hm.toHeld.trans ⟨rfl, rfl, fun _ => rfl, fun _ => rfl, fun _ => .refl _, List.prefix_append _ _,
    List.prefix_refl _, ⟨fun l => l, fun l => l, fun l => l, fun l => { l with closedIds := ?_ }, fun l => l⟩⟩)
  simp
  omega

theorem editionCloseRequest_kept (h : Kept r s) (tag id : Nat) : Kept r (editionCloseRequest tag id s) := by
  unfold editionCloseRequest
  split
  · exact reply_kept h _ _ _ _
  · split
    · exact reply_kept h _ _ _ _
    · split
      · exact reply_kept h _ _ _ _
      · split
        · exact reply_kept h _ _ _ _
        · rename_i hl
          have hl : s.registry.closedIds.length < 1024 := by simpa [Config.closedRoom] using hl
          exact reply_kept (finish_kept (releaseChecks_kept (haltUpdate_kept (editionNotice_kept (releaseSets_kept
            (closeEdition_kept h _ hl)) _ _)))) _ _ _ _

/-- An entry whose edition has no print in the queue leaves the table. -/
theorem dropEdition_kept (h : Kept r s) (id : Nat) (hq : s.editionQueued id = false) :
    Kept r { s with registry := { s.registry with table := s.registry.table.filter fun x => x.id != id } } := by
  refine h.ofWork (h.toHeld.trans ⟨rfl, rfl, fun _ => rfl, fun _ => rfl, fun _ => .refl _, List.prefix_refl _,
    List.prefix_refl _, ⟨fun l => l, fun l => l, fun l => l,
      fun l => { l with editions := (List.length_filter_le _ _).trans l.editions }, fun l => l⟩⟩)
    (fun w => ⟨w.rollLaw, w.printsLaw, ?_⟩) (fun _ _ _ x => x) (fun _ x l =>
    l.pass (fun q m => ⟨q, m, rfl, rfl⟩) (fun d m => ⟨d, (List.mem_filter.mp m).1, .refl d⟩) fun _ k => k)
    fun _ => supply_same
  have k := w.editionLaw
  refine ⟨k.ids.sublist (List.Sublist.map _ List.filter_sublist), fun p hp i hi => ⟨(k.known p hp i hi).1, ?_⟩,
    fun d hd => k.counts d (List.mem_filter.mp hd).1, fun d hd => k.limits d (List.mem_filter.mp hd).1⟩
  obtain ⟨d, hd, rfl⟩ := List.mem_map.mp (k.known p hp i hi).2
  refine List.mem_map.mpr ⟨d, List.mem_filter.mpr ⟨hd, ?_⟩, rfl⟩
  have := List.any_eq_false.mp hq p hp
  simp only [hi, beq_iff_eq, Option.some.injEq] at this
  simpa using this

theorem editionArchiveRequest_kept (h : Kept r s) (tag id : Nat) : Kept r (editionArchiveRequest tag id s) := by
  unfold editionArchiveRequest
  split
  · exact reply_kept h _ _ _ _
  · split
    · exact reply_kept h _ _ _ _
    · split
      · exact reply_kept h _ _ _ _
      · exact reply_kept (refreshPanel_kept (haltUpdate_kept (raise_kept
          (dropEdition_kept h id (by simpa using ‹¬s.editionQueued id = true›)) _))) _ _ _ _

theorem editionQueryReply_kept (h : Kept r s) (tag : Nat) (id : Option Nat) : Kept r (editionQueryReply tag id s) := by
  unfold editionQueryReply
  split
  · exact reply_kept h _ _ _ _
  · split <;> exact reply_kept h _ _ _ _

theorem closedQueryReply_kept (h : Kept r s) (tag start : Nat) : Kept r (closedQueryReply tag start s) := by
  unfold closedQueryReply
  split <;> exact reply_kept h _ _ _ _

/-! ## Costs -/

theorem costReadRequest_kept (h : Kept r s) (tag : Nat) : Kept r (costReadRequest tag s) := by
  unfold costReadRequest
  split <;> exact reply_kept h _ _ _ _

/-- The oldest record gone, all else is kept: what the log loses is its first record alone. -/
theorem dropOldest_laws (s : State) : LawsKept s { s with cost := { s.cost with log := s.cost.log.drop 1 } } :=
  ⟨id, id, id, fun l => { l with }, id⟩

theorem dropRecord_laws (s : State) : LawsKept s (dropRecord s) :=
  (dropOldest_laws s).trans (releaseChecks_kept (earlyFullCheck_kept (.refl _))).laws

theorem dropRecord_ties (w : WorkLaw s) {x : Nat → Prop} (l : TiesBut x s) : TiesBut x (dropRecord s) := by
  have hd := ties_same (s := s) (t := { s with cost := { s.cost with log := s.cost.log.drop 1 } }) rfl rfl rfl x l
  have hw : WorkLaw { s with cost := { s.cost with log := s.cost.log.drop 1 } } := w.shorterLog (by simp)
  have hk := releaseChecks_kept (earlyFullCheck_kept (.refl { s with cost := { s.cost with log := s.cost.log.drop 1 } }))
  exact hk.ties hw x hd

theorem dropRecord_supply (w : WorkLaw s) {x : Chan → Prop} (l : SupplyBut x s) : SupplyBut x (dropRecord s) := by
  have hd := supply_same (s := s) (t := { s with cost := { s.cost with log := s.cost.log.drop 1 } }) rfl rfl
    (fun _ => rfl) x l
  have hw : WorkLaw { s with cost := { s.cost with log := s.cost.log.drop 1 } } := w.shorterLog (by simp)
  have hk := releaseChecks_kept (earlyFullCheck_kept (.refl { s with cost := { s.cost with log := s.cost.log.drop 1 } }))
  exact hk.supply hw x hd

theorem dropRecord_work (w : WorkLaw s) : WorkLaw (dropRecord s) :=
  (releaseChecks_kept (earlyFullCheck_kept (.refl _))).work (w.shorterLog (by simp))

/-! ## The RESET request -/

theorem resetRemove_kept (h : Kept r s) (n : Nat) : Kept r (resetRemove s n) := by
  unfold resetRemove
  split
  · exact h
  · rename_i p hp
    have hn := findPrint_handle hp
    subst hn
    split
    · exact settle_kept (removePrint_kept h hp (.inl ‹_›))
    · exact settle_kept (removePrint_kept h hp (.inr ‹_›))
    · exact h

/-- A print that has left the queue stands at no stage. -/
theorem dropPrint_stage (s : State) (n k : Nat) : StageAt k n (s.dropPrint n) := fun q hq hn => by
  have := (List.mem_filter.mp hq).2
  simp [hn] at this

theorem removePrint_stage (w : WorkLaw s) {p : PrintRecord} (hp : s.findPrint p.handle = some p)
    (hs : p.state = .waiting ∨ p.state = .ready) (k : Nat) : StageAt k p.handle (removePrint p s) := by
  unfold removePrint
  dsimp only
  by_cases hr : p.state = .ready
  · simp only [hr, if_true]
    exact (releaseChecks_kept (earlyFullCheck_kept (raise_kept (.refl _) _))).forward
      ((dropReady_kept (.refl s) hp hr).work w) _ _ (dropPrint_stage _ _ _)
  · simp only [hr, if_false]
    exact (releaseChecks_kept (raise_kept (.refl _) _)).forward
      ((dropWaiting_kept (.refl s) hp (hs.resolve_right hr)).work w) _ _ (dropPrint_stage _ _ _)

/-- After pass 1 has visited a print it is WAITING or READY no more. -/
theorem resetRemove_stage (w : WorkLaw s) (n : Nat) : StageAt 1 n (resetRemove s n) := by
  unfold resetRemove
  split
  · rename_i hn
    intro q hq hh
    have := findPrint_of_mem w hq
    rw [hh, hn] at this
    cases this
  · rename_i p hp
    have hn := findPrint_handle hp
    subst hn
    have hw : p.state = .waiting ∨ p.state = .ready → StageAt 1 p.handle (settle (removePrint p s)) := fun hs =>
      (settle_kept (.refl _)).forward ((removePrint_kept (.refl s) hp hs).work w) _ _ (removePrint_stage w hp hs 1)
    split
    · exact hw (.inl ‹_›)
    · exact hw (.inr ‹_›)
    · rename_i h1 h2
      intro q hq hh
      have := findPrint_of_mem w hq
      rw [hh, hp] at this
      cases this
      cases hst : p.state <;> simp_all [PrintRecord.stage]

theorem resetRemoveAll_kept (ns : List Nat) (h : Kept r s) : Kept r (ns.foldl resetRemove s) :=
  foldl_kept _ (fun n hk => resetRemove_kept hk n) _ h

theorem resetRemoveAll_stage (ns : List Nat) (w : WorkLaw s) {n : Nat} (hn : n ∈ ns) :
    StageAt 1 n (ns.foldl resetRemove s) := by
  induction ns generalizing s with
  | nil => cases hn
  | cons m ns ih =>
    have hk := resetRemove_kept (.refl s) m
    rcases List.mem_cons.mp hn with rfl | hn
    · exact (resetRemoveAll_kept ns (.refl _)).forward (hk.work w) _ _ (resetRemove_stage w n)
    · exact ih (hk.work w) hn

/-- Pass 1 leaves no print WAITING or READY (R206). -/
theorem resetPass_stage (w : WorkLaw s) (n : Nat) :
    StageAt 1 n ((s.queue.prints.map (·.handle)).foldl resetRemove s) := by
  by_cases hn : n ∈ s.queue.prints.map (·.handle)
  · exact resetRemoveAll_stage _ w hn
  · exact (resetRemoveAll_kept _ (.refl s)).forward w _ _ fun q hq hh =>
      absurd (List.mem_map.mpr ⟨q, hq, hh⟩) hn

theorem resetSpoil_kept (h : Kept r s) : Kept r (resetSpoil s) := by
  unfold resetSpoil
  split
  · rename_i p hp
    exact spoilActive_kept h (.inl hp) (active_state hp) _
  · exact h

/-- Pass 2 leaves no print ACTIVE (R206). -/
theorem resetSpoil_stage (w : WorkLaw s) (h : ∀ n, StageAt 1 n s) (n : Nat) : StageAt 2 n (resetSpoil s) := by
  have two : ∀ q ∈ s.queue.prints, q.state ≠ .active → 2 ≤ q.stage := fun q hq ha => by
    have := h q.handle q hq rfl
    cases hs : q.state <;> simp_all [PrintRecord.stage]
  unfold resetSpoil
  split
  · rename_i p hp
    by_cases hn : n = p.handle
    · subst hn
      exact spoilActive_stage w (.inl hp) (active_state hp) _
    · refine (spoilActive_kept (.refl s) (.inl hp) (active_state hp) true).forward w _ _ fun q hq hh => two q hq fun ha => hn ?_
      have hl := w.printsLaw.active
      have m1 : q.handle ∈ (s.queue.prints.filter (·.state == .active)).map (·.handle) :=
        List.mem_map.mpr ⟨q, List.mem_filter.mpr ⟨hq, by simp [ha]⟩, rfl⟩
      have m2 : p.handle ∈ (s.queue.prints.filter (·.state == .active)).map (·.handle) :=
        List.mem_map.mpr ⟨p, List.mem_filter.mpr ⟨List.mem_of_find?_eq_some hp, by simp [active_state hp]⟩, rfl⟩
      rw [hl] at m1 m2
      cases ho : s.store.openPrint with
      | none => rw [ho] at m1; cases m1
      | some m =>
        simp only [ho, Option.map_some, Option.toList_some, List.mem_singleton] at m1 m2
        omega
  · rename_i hp
    exact fun q hq _ => two q hq fun ha => by
      have := List.find?_eq_none.mp hp q hq
      simp [ha] at this

theorem resetClose_kept (h : Kept r s) (hi : WorkLaw r → ∀ n, StageAt 2 n s) : Kept r (resetClose s) :=
  closeAll_kept _ h true fun w n _ => hi w n

/-- The three passes of the RESET request (R206). -/
theorem resetPasses_kept (h : Kept r s) :
    Kept r (resetClose ((resetSpoil ((s.queue.prints.map (·.handle)).foldl resetRemove s)).mapColour discardScan)) := by
  have hk := resetRemoveAll_kept (s.queue.prints.map (·.handle)) h
  refine resetClose_kept (mapColour_kept (resetSpoil_kept hk) _ fun u => ?_) fun w n => ?_
  · unfold discardScan
    split <;> rfl
  · exact resetSpoil_stage (hk.work w) (resetPass_stage (h.work w)) n

/-- After the passes every print that is left has been imaged (R206). -/
theorem resetPasses_stage (w : WorkLaw s) (n : Nat) :
    StageAt 2 n (resetClose ((resetSpoil ((s.queue.prints.map (·.handle)).foldl resetRemove s)).mapColour discardScan)) := by
  have hk := resetRemoveAll_kept (s.queue.prints.map (·.handle)) (.refl s)
  have hs := resetSpoil_stage (hk.work w) (resetPass_stage w)
  have hd := mapColour_kept (resetSpoil_kept hk) discardScan fun u => by unfold discardScan; split <;> rfl
  generalize resetSpoil ((s.queue.prints.map (·.handle)).foldl resetRemove s) = u at hs hd ⊢
  have hu : ∀ m, StageAt 2 m (u.mapColour discardScan) := hs
  exact (resetClose_kept (.refl _) fun _ => hu).forward (hd.work w) n 2 (hu n)

theorem resetTake_loose (s : State) (c : Chan) : Loose s (resetTake s c) := by
  unfold resetTake
  split
  · exact (updateIndication_pour (take_pour (.refl c s))).loose
  · exact (Kept.refl s).loose

theorem resetEnd_kept (h : Kept r s) (c : Chan) : Kept r (resetEnd s c) := by
  unfold resetEnd
  split
  · exact setRefill_kept h c _
  · exact h

theorem resetRefills_loose (s : State) : Loose s (resetRefills s) :=
  (foldl_loose _ resetTake_loose _ s).trans (foldl_kept _ (fun c hk => reconsider_kept hk c) _
    (foldl_kept _ (fun c hk => resetEnd_kept hk c) _ (.refl _))).loose

theorem resetList_kept (h : Kept r s) : Kept r (resetList s) := mapMedia_kept (emptyList_kept h _) _

theorem resetRoll_kept (h : Kept r s) : Kept r (resetRoll s) := by
  unfold resetRoll
  dsimp only
  split
  · exact rollNotice_kept (unverifyRoll_kept h) _
  · exact unverifyRoll_kept h

theorem resetTimers_kept (h : Kept r s) : Kept r (resetTimers s) :=
  h.same (h.toHeld.trans ⟨rfl, rfl, fun _ => rfl, fun _ => rfl, fun _ => .refl _, List.prefix_refl _,
    List.prefix_refl _, ⟨id, id, id, fun l => { l with }, id⟩⟩)

/-- The access level falls to OPERATOR, and the five laws stay. -/
theorem dropLevel_laws (s : State) : LawsKept s (s.mapControl fun k => { k with level := .operator }) :=
  ⟨id, id, id, fun l => { l with }, id⟩

theorem resetSteps_loose (s : State) :
    Loose s (endIdleStop (resetTimers (resetRefills (resetRoll (resetList s))))) :=
  (resetRoll_kept (resetList_kept (.refl s))).loose.trans ((resetRefills_loose _).trans
    (endIdleStop_kept (resetTimers_kept (.refl _))).loose)

theorem resetComplete_laws (s : State) : LawsKept s (resetComplete s) :=
  (resetSteps_loose s).laws.trans (dropLevel_laws _)

theorem resetComplete_work (w : WorkLaw s) : WorkLaw (resetComplete s) := by
  have h := (resetSteps_loose s).work w
  unfold resetComplete
  dsimp only
  generalize endIdleStop (resetTimers (resetRefills (resetRoll (resetList s)))) = t at h ⊢
  exact h

theorem resetComplete_ties (w : WorkLaw s) {x : Nat → Prop} (l : TiesBut x s) : TiesBut x (resetComplete s) := by
  have h := (resetSteps_loose s).ties w x l
  unfold resetComplete
  dsimp only
  generalize endIdleStop (resetTimers (resetRefills (resetRoll (resetList s)))) = t at h ⊢
  exact ties_same (s := t) (t := t.mapControl fun k => { k with level := .operator }) rfl rfl rfl x h

/-- The takings of RESET pour while no print holds ink. -/
theorem resetComplete_supply (w : WorkLaw s) (hi : ∀ n, StageAt 2 n s) {x : Chan → Prop} (l : SupplyBut x s) :
    SupplyBut x (resetComplete s) := by
  have h : SupplyBut x _ := (resetSteps_loose s).imaged w hi l
  unfold resetComplete
  dsimp only
  generalize endIdleStop (resetTimers (resetRefills (resetRoll (resetList s)))) = t at h ⊢
  exact supply_same (s := t) (t := t.mapControl fun k => { k with level := .operator }) rfl rfl (fun _ => rfl) x h

/-! ## FACTORY_RESTORE -/

/-- The factory tables keep the five laws. -/
theorem factoryTables_laws (s : State) : LawsKept s (factoryTables s) :=
  ⟨id, id, id, fun l => { l with editions := Nat.zero_le _ }, id⟩

/-- With no print in the queue the registry may be emptied. -/
theorem factoryTables_work (w : WorkLaw s) (hq : s.queue.prints = []) : WorkLaw (factoryTables s) :=
  ⟨w.rollLaw, w.printsLaw, by
    change EditionLaw s.queue.prints []
    rw [hq]
    exact ⟨List.nodup_nil, fun _ h => (by cases h), fun _ h => (by cases h), fun _ h => (by cases h)⟩⟩

/-- No entry is left, and so no tie. -/
theorem factoryTables_ties (x : Nat → Prop) (s : State) : TiesBut x (factoryTables s) :=
  ⟨fun _ h => (by cases h), fun _ _ _ h => (by cases h), fun _ h => (by cases h)⟩

theorem factoryTables_supply {x : Chan → Prop} (l : SupplyBut x s) : SupplyBut x (factoryTables s) :=
  supply_same (s := s) (t := factoryTables s) rfl rfl (fun _ => rfl) x l

theorem flushUnmasked_kept (h : Kept r s) : Kept r (flushUnmasked s) :=
  foldl_kept _ (fun k hk => flushKind_kept hk _ k) _ h

/-! ## Power-on -/

/-- Power applied keeps the five laws: the ink and the residues come from their checkpoints. -/
theorem powerVolatile_laws (levels : SensorLevels) (s : State) : LawsKept s (powerVolatile levels s) where
  tank := fun l c => by
    refine ⟨⟨?_, ⟨fun j e _ => ?_, fun j e _ => ?_⟩⟩, (l c).2⟩
    · simpa [powerVolatile, State.channel, restoredChannel] using (l c).2
    · simp [powerVolatile, State.channel, restoredChannel] at e
    · simp [powerVolatile, State.channel, restoredChannel] at e
  residues := fun l c => ⟨by simpa [powerVolatile] using (l c).2, (l c).2⟩
  stations := fun _ => List.Pairwise.nil
  capacities := fun l =>
    { prints := Nat.zero_le _, stations := Nat.zero_le _, editions := by simpa [powerVolatile] using l.editions
      closedIds := l.closedIds, memory := l.memory, sendList := Nat.zero_le _
      receiveList := Nat.zero_le _ }
  silence := fun _ h => by simp [powerVolatile, EngineLink.initial] at h

/-- After a power loss the marker is reconciled, and the laws hold of the empty queue: what an ACTIVE print had taken of
the log is its record's. -/
theorem powerRestored_work (levels : SensorLevels) (w : WorkLaw s) :
    WorkLaw (reconcileMarker (powerVolatile levels s)) := by
  have hp := w.printsLaw
  have he := w.editionLaw
  have roll : RollLaw MediaTransport.initial :=
    ⟨List.Pairwise.nil, fun _ h => (by cases h), fun _ h => (by cases h)⟩
  have prints : ∀ {log : List CostRecord}, log.length ≤ 128 →
      PrintsLaw [] EngineState.idle none MediaTransport.initial.hold log := fun hl =>
    ⟨List.nodup_nil, rfl, by simp, fun _ _ => rfl, fun _ h => (by cases h), fun _ h => (by cases h), by simpa using hl⟩
  have entries : ∀ g : Edition → Edition, (∀ e, (g e).id = e.id ∧ (g e).inFlight = 0 ∧ (g e).apInFlight = 0 ∧
      (g e).accepted = e.accepted ∧ (g e).apAccepted = e.apAccepted ∧ (g e).limit = e.limit ∧
      (g e).apLimit = e.apLimit) → EditionLaw [] (s.registry.table.map g) := by
    intro g hg
    refine ⟨?_, fun _ h => by (cases h), fun d hd => ?_, fun d hd => ?_⟩
    · have : (s.registry.table.map g).map (·.id) = s.registry.table.map (·.id) := by
        rw [List.map_map]
        exact List.map_congr_left fun e _ => (hg e).1
      rw [this]
      exact he.ids
    · obtain ⟨e, -, rfl⟩ := List.mem_map.mp hd
      exact ⟨(hg e).2.1, (hg e).2.2.1⟩
    · obtain ⟨e, hm, rfl⟩ := List.mem_map.mp hd
      obtain ⟨-, h1, h2, h3, h4, h5, h6⟩ := hg e
      have := he.limits e hm
      omega
  have hl := hp.places
  unfold reconcileMarker
  split
  · rename_i hm
    have hm : s.store.openPrint = none := hm
    refine ⟨roll, ?_, entries restoredEdition fun e => ⟨rfl, rfl, rfl, rfl, rfl, rfl, rfl⟩⟩
    change PrintsLaw [] EngineState.idle s.store.openPrint _ s.cost.log
    rw [hm]
    exact prints (by omega)
  · rename_i m hm
    have hm : s.store.openPrint = some m := hm
    have hone : 1 ≤ (s.queue.prints.filter PrintRecord.live).length := by
      have ha := hp.active
      rw [hm] at ha
      obtain ⟨p, hpm, hst⟩ : ∃ p ∈ s.queue.prints, p.state = .active := by
        have : m.handle ∈ (s.queue.prints.filter (·.state == .active)).map (·.handle) := by rw [ha]; simp
        obtain ⟨p, hp', -⟩ := List.mem_map.mp this
        exact ⟨p, (List.mem_filter.mp hp').1, by simpa using (List.mem_filter.mp hp').2⟩
      exact List.length_pos_iff.mpr (List.ne_nil_of_mem (List.mem_filter.mpr ⟨hpm, by simp [PrintRecord.live, hst]⟩))
    dsimp only
    split
    · rename_i id _
      refine ⟨roll, prints ?_, ?_⟩
      · simp only [appendRecord, State.mapEdition_cost, saveInk, setOpenMarker_cost, powerVolatile, List.length_append,
          List.length_singleton]
        omega
      · change EditionLaw [] ((s.registry.table.map restoredEdition).map _)
        rw [List.map_map]
        refine entries _ fun e => ?_
        simp only [Function.comp_apply]
        split <;> exact ⟨rfl, rfl, rfl, rfl, rfl, rfl, rfl⟩
    · refine ⟨roll, prints ?_, entries restoredEdition fun e => ⟨rfl, rfl, rfl, rfl, rfl, rfl, rfl⟩⟩
      simp only [appendRecord, saveInk, setOpenMarker_cost, powerVolatile, List.length_append, List.length_singleton]
      omega

/-- An entry changed in neither its state nor its accepted prints. -/
theorem mapEdition_ties {x : Nat → Prop} (l : TiesBut x s) (id : Nat) (f : Edition → Edition)
    (hf : ∀ e, TieKept e (f e)) : TiesBut x (s.mapEdition id f) := by
  refine l.pass (fun q m => ⟨q, m, rfl, rfl⟩) (fun d m => ?_) fun _ k => k
  simp only [State.mapEdition_registry, List.mem_map] at m
  obtain ⟨e, he, rfl⟩ := m
  refine ⟨e, he, ?_⟩
  split
  · exact hf e
  · exact .refl e

/-- After a power loss the ties stand: the entries and the sets come from their stores, and the queue is empty. -/
theorem powerRestored_ties (levels : SensorLevels) {x : Nat → Prop} (l : TiesBut x s) :
    TiesBut x (reconcileMarker (powerVolatile levels s)) := by
  have h0 : TiesBut x (powerVolatile levels s) := by
    refine l.pass (fun q m => by cases m) (fun d m => ?_) fun _ k => k
    obtain ⟨e, he, rfl⟩ := List.mem_map.mp m
    exact ⟨e, he, .same rfl rfl rfl rfl rfl⟩
  have hc : ∀ u : State, TiesBut x u → TiesBut x (setOpenMarker none (saveInk u)) := fun u k =>
    ties_same (s := u) (t := setOpenMarker none (saveInk u)) rfl rfl rfl x k
  have ha : ∀ (u : State) (i : InkSupply) (k : CostRecord), TiesBut x u →
      TiesBut x (appendRecord k { u with ink := i }) := fun u i k l =>
    ties_same (s := u) (t := appendRecord k { u with ink := i }) rfl rfl rfl x l
  generalize powerVolatile levels s = u at h0 ⊢
  unfold reconcileMarker
  split
  · exact h0
  · dsimp only
    split
    · refine hc _ ?_
      generalize reconcileRecord _ _ _ = k
      exact mapEdition_ties (ha _ _ _ h0) _ _ fun e => (addCost_tieKept e _ _).trans (.same rfl rfl rfl rfl rfl)
    · exact hc _ (ha _ _ _ h0)

/-- After a power loss the queue is empty, and no print holds ink. -/
theorem powerRestored_supply (levels : SensorLevels) (x : Chan → Prop) (s : State) :
    SupplyBut x (reconcileMarker (powerVolatile levels s)) ∧
      ∀ n, StageAt 2 n (reconcileMarker (powerVolatile levels s)) := by
  have hq : (reconcileMarker (powerVolatile levels s)).queue = .initial := by
    unfold reconcileMarker
    split
    · rfl
    · dsimp only
      split <;> rfl
  have hi : ∀ n, StageAt 2 n (reconcileMarker (powerVolatile levels s)) := fun n p hp => by
    rw [hq] at hp
    cases hp
  refine ⟨supply_of_imaged (y := fun _ => True) hi ⟨?_, ?_, fun h => ?_, fun _ => .inl trivial⟩, hi⟩ <;> rw [hq]
  · exact Nat.zero_le _
  · exact List.nodup_nil
  · simp [PrintQueue.initial]

/-- A roll record put in while no entry is listed and nothing moves. -/
theorem setRecord_kept (h : Kept r s) (g : RollGeometry) (hs : s.media.stations = []) (hm : s.media.movement = none) :
    Kept r (s.mapMedia fun m => { m with rollState := .unverified, roll := g }) := by
  refine h.ofMedia _ (fun l => l) id fun _ w => ⟨w.rollLaw.order, fun e he => ?_, fun v hv => ?_⟩
  · rw [show s.media.stations = [] from hs] at he
    cases he
  · rw [show s.media.movement = none from hm] at hv
    cases hv

theorem restoreRoll_kept (h : Kept r s) (hs : s.media.stations = []) (hm : s.media.movement = none) :
    Kept r (restoreRoll s) := by
  unfold restoreRoll
  split
  · exact h
  · dsimp only
    split
    · exact setRecord_kept h _ hs hm
    · exact rollEnds_kept (setRecord_kept h _ hs hm)

theorem workOutFlags_kept (h : Kept r s) : Kept r (workOutFlags s) :=
  h.ofWork (h.toHeld.trans ⟨rfl, rfl, fun _ => rfl, fun _ => rfl, fun _ => .refl _, List.prefix_refl _,
    List.prefix_refl _, ⟨id, id, id, fun l => { l with }, id⟩⟩)
    (fun w => w.media (fun l => ⟨l.order, l.ahead, l.moving⟩) (.inl rfl)) (fun _ _ _ x => x) (fun _ => ties_same) fun _ => supply_same

theorem examineSlot_loose (s : State) (c : Chan) : Loose s (examineSlot s c) := by
  unfold examineSlot
  split
  · exact (queueTransfer_pour (mapSlot_pour (.refl c s) _) _).loose
  · exact (reconsider_kept (.refl s) c).loose

theorem workOutIndication_kept (h : Kept r s) (c : Chan) : Kept r (workOutIndication s c) := mapChannel_kept' h c _

theorem awaitReads_kept (h : Kept r s) : Kept r (awaitReads s) := by
  unfold awaitReads
  dsimp only
  split
  · exact haltUpdate_kept (h.ofStartUp _)
  · exact h.ofStartUp _

/-! ## Engine frames -/

theorem hear_kept (h : Kept r s) (kind : Nat) : Kept r (hear kind s) := by
  unfold hear
  split
  · exact haltUpdate_kept (engineNotice_kept (mapEngine_kept h _) _)
  · exact h

theorem hearAndRefresh_kept (h : Kept r s) (kind : Nat) : Kept r (hearAndRefresh kind s) :=
  silenceRefresh_kept (hear_kept h kind)

theorem answerReady_kept (h : Kept r s) : Kept r (answerReady s) := by
  unfold answerReady
  split
  · exact h
  · exact mapEngine_kept (tell_kept h _) _

theorem readyFrame_kept (h : Kept r s) (tag : Nat) : Kept r (readyFrame tag s) := by
  have hk := hear_kept h 0x40
  unfold readyFrame
  dsimp only
  split
  · exact refreshPanel_kept (tell_kept hk _)
  · rename_i hp
    refine refreshPanel_kept (answerReady_kept (settle_kept (hk.ofWork ?_ (fun w => ?_) (fun _ _ _ x => x)
      (fun _ => ties_same) fun _ => supply_same)))
    · exact hk.toHeld.ofEngine _ rfl fun l hq => absurd (l hq).1 hp
    · refine ⟨w.rollLaw, { w.printsLaw with printing := ?_ }, w.editionLaw⟩
      have := w.printsLaw.printing
      simp only [hp, false_iff] at this
      simpa using this

theorem refuseFrame_kept (h : Kept r s) (tag : Nat) (why : EngineRefusal) : Kept r (refuseFrame tag why s) :=
  finish_kept (tell_kept h _)

theorem answerTaken_kept (h : Kept r s) (tag : Nat) : Kept r (answerTaken tag s) := tell_kept (finish_kept h) _

theorem swathFrame_kept (h : Kept r s) (tag : Nat) (report : SwathReport) : Kept r (swathFrame tag report s) := by
  unfold swathFrame
  dsimp only
  split
  · exact refuseFrame_kept (hearAndRefresh_kept h _) _ _
  · split
    · exact answerTaken_kept (hearAndRefresh_kept h _) _
    · exact answerTaken_kept (meterSwath_kept (hearAndRefresh_kept h _) _ _) _

theorem beginEngineFeed_kept (h : Kept r s) (tag handle distance : Nat) (p : PrintRecord) :
    Kept r (beginEngineFeed tag handle distance p s) := by
  unfold beginEngineFeed
  exact beginFeed_kept (mapEngine_quiet h _) _ _

theorem feedAskFrame_kept (h : Kept r s) (tag handle distance : Nat) :
    Kept r (feedAskFrame tag handle distance s) := by
  unfold feedAskFrame
  dsimp only
  split
  · exact refuseFrame_kept (hearAndRefresh_kept h _) _ _
  · split
    · exact refuseFrame_kept (hearAndRefresh_kept h _) _ _
    · exact finish_kept (beginEngineFeed_kept (hearAndRefresh_kept h _) _ _ _ _)

theorem dropStopped_kept (h : Kept r s) : Kept r (dropStopped s) := mapEngine_kept h _

/-- The print that a frame names is the ACTIVE one. -/
theorem printOf_active {n : Nat} {p : PrintRecord} (h : printOf n s = .ok p) : s.active = some p := by
  unfold printOf at h
  split at h
  · cases h
  · split at h
    · cases h
    · split at h
      · split at h
        · cases h
          assumption
        · cases h
      · cases h

theorem endingFrame_kept (h : Kept r s) (tag handle : Nat) (effect : PrintRecord → State → State)
    (he : ∀ p, s.active = some p → Kept r (effect p s)) : Kept r (endingFrame tag handle effect s) := by
  unfold endingFrame
  split
  · exact answerTaken_kept (dropStopped_kept h) _
  · exact refuseFrame_kept h _ _
  · rename_i p hp
    exact answerTaken_kept (he p (printOf_active hp)) _

theorem printDone_kept (h : Kept r s) (tag handle : Nat) : Kept r (endingFrame tag handle finishImaging s) :=
  endingFrame_kept h _ _ _ fun _ hp => finishImaging_kept h (.inl hp) (active_state hp)

theorem failPrint_kept (h : Kept r s) (cause : Nat) {p : PrintRecord} (hp : s.active = some p) :
    Kept r (failPrint cause p s) :=
  engineNotice_kept (spoilActive_kept h (.inl hp) (active_state hp) false) _

theorem printFailFrame_kept (h : Kept r s) (tag handle cause : Nat) :
    Kept r (printFailFrame tag handle cause s) := by
  unfold printFailFrame
  dsimp only
  split
  · exact refuseFrame_kept (hearAndRefresh_kept h _) _ _
  · exact endingFrame_kept (hearAndRefresh_kept h _) _ _ _ fun p hp =>
      failPrint_kept (hearAndRefresh_kept h _) _ hp

theorem engineMalformed_kept (h : Kept r s) (tag kind : Nat) : Kept r (engineMalformed tag kind s) :=
  refuseFrame_kept (hearAndRefresh_kept h _) _ _

theorem silenceExpires_kept (h : Kept r s) (d : Nat) : Kept r (silenceExpires d s) := by
  unfold silenceExpires
  dsimp only
  split
  · exact finish_kept (timeTo_kept h d)
  · rename_i p hp
    exact finish_kept (haltUpdate_kept (engineNotice_kept (mapEngine_kept
      (spoilActive_kept (timeTo_kept h d) (.inl hp) (active_state hp) _) _) _))

/-! ## Spectro events -/

theorem calibrationAnswer_kept (h : Kept r s) (tag : Nat) (ending : Bool → State → State)
    (he : ∀ {t} b, Kept r t → Kept r (ending b t)) : Kept r (calibrationAnswer tag ending s) := by
  unfold calibrationAnswer
  split
  · split
    · exact finish_kept (he _ h)
    · exact h
  · exact h

theorem calibrationExpires_kept (h : Kept r s) : Kept r (calibrationExpires s) := by
  unfold calibrationExpires
  split
  · exact finish_kept (failCalibration_kept (timeTo_kept h _) _ _)
  · exact h

theorem retryExpires_kept (h : Kept r s) : Kept r (retryExpires s) := by
  unfold retryExpires
  split
  · exact h
  · exact refreshPanel_kept (autoCalibrate_kept (mapColour_kept (timeTo_kept h _) _))

theorem scanEnds_kept (h : Kept r s) (job : ScanJob) (tag : Nat) (stale discarded : Bool) (v : ScanResult) :
    Kept r (scanEnds job tag stale discarded v s) :=
  finish_kept (afterCommand_kept (advance_kept (endScan_kept h _ _ _ _ _)))

theorem readingsFrame_kept (h : Kept r s) (tag : Nat) (list : List Reading) : Kept r (readingsFrame tag list s) := by
  unfold readingsFrame
  split
  · split
    · split
      · exact scanEnds_kept (mapColour_kept h _) _ _ _ _ _
      · exact scanEnds_kept h _ _ _ _ _
    · exact h
  · exact h

theorem scanFaultFrame_kept (h : Kept r s) (tag cause : Nat) : Kept r (scanFaultFrame tag cause s) := by
  unfold scanFaultFrame
  split
  · split
    · exact scanEnds_kept h _ _ _ _ _
    · exact h
  · exact h

theorem scanExpires_kept (h : Kept r s) : Kept r (scanExpires s) := by
  unfold scanExpires
  split
  · exact scanEnds_kept (timeTo_kept h _) _ _ _ _ _
  · exact h

/-! ## Ink events -/

theorem setCartridgeInput_kept (h : Kept r s) (c : Chan) (level : Bool) : Kept r (setCartridgeInput c level s) :=
  h.ofInputs _

theorem beginRead_kept (h : Kept r s) (c : Chan) : Kept r (beginRead c s) :=
  h.trans (handOn_kept (reconsider_pour (queueTransfer_pour (mapSlot_pour (.refl c s) _) _)))

theorem insertCartridge_kept (h : Kept r s) (c : Chan) : Kept r (insertCartridge c s) := by
  unfold insertCartridge
  dsimp only
  split
  · exact finish_kept (beginRead_kept (setCartridgeInput_kept h _ _) c)
  · exact setCartridgeInput_kept h _ _

theorem settleRemoved_pour {c : Chan} (h : Pour c r s) : Pour c r (settleRemoved c s) := by
  have ht : Pour c r (if (s.channel c).refill = .pumping then take c s else s) := by
    split
    · exact take_pour h
    · exact h
  unfold settleRemoved
  dsimp only
  generalize (if (s.channel c).refill = .pumping then take c s else s) = t at ht ⊢
  split
  · exact memoryWrite_pour ht _ _
  · exact memoryWrite_pour ht _ _
  · exact ht

theorem emptyRemoved_pour {c : Chan} (h : Pour c r s) : Pour c r (emptyRemoved c s) :=
  cartridgeNotice_pour (saveInk_pour (setRefillMarker_pour (setRefill_pour (emptySlot_pour h) _) _ _))

theorem removeJudged_kept (h : Kept r s) (c : Chan) : Kept r (removeJudged c s) :=
  h.trans (handOn_kept (updateIndication_pour
    ((emptyRemoved_pour (settleRemoved_pour (.refl c s))).still (haltUpdate_kept (.refl _)) (haltUpdate_still _))))

theorem removeUnread_kept (h : Kept r s) (c : Chan) : Kept r (removeUnread c s) :=
  h.trans (handOn_kept (reconsider_pour (cartridgeNotice_pour (saveInk_pour (emptySlot_pour (.refl c s))))))

theorem removeCartridge_kept (h : Kept r s) (c : Chan) : Kept r (removeCartridge c s) := by
  have hi := setCartridgeInput_kept h c false
  unfold removeCartridge
  dsimp only
  split
  · exact hi
  · exact finish_kept (firstReadOver_kept (removeUnread_kept hi c) c)
  all_goals exact finish_kept (removeJudged_kept hi c)

theorem endRead_kept (h : Kept r s) (c : Chan) (result : Option TagData) : Kept r (endRead c result s) :=
  finish_kept (firstReadOver_kept (readOutcome_kept (nextTransfer_kept h) c _) c)

theorem tagRead_kept (h : Kept r s) (result : Option TagData) : Kept r (tagRead result s) := by
  unfold tagRead
  split
  · exact endRead_kept h _ _
  · exact h

theorem tagWrite_kept (h : Kept r s) (ok : Bool) : Kept r (tagWrite ok s) := by
  unfold tagWrite
  split
  · cases ok
    · exact nextTransfer_kept h
    · refine nextTransfer_kept (mapChannel_kept' h _ _ fun ch => ⟨rfl, rfl, rfl, rfl, rfl, ?_⟩)
      cases hk : ch.cartridge <;> simp [Channel.cartridgeVolume, marked, hk]
  · exact nextTransfer_kept h
  · exact h

theorem tagTimeout_kept (h : Kept r s) : Kept r (tagTimeout s) := by
  unfold tagTimeout
  split
  · exact endRead_kept (timeTo_kept h _) _ _
  · exact refreshPanel_kept (nextTransfer_kept (timeTo_kept h _))
  · exact h

/-- A pulse is counted while the pump runs. -/
theorem countPulse_kept (h : Kept r s) (c : Chan) (hp : (s.channel c).pumpRun = true) : Kept r (countPulse c s) := by
  refine mapChannel_kept h c _ (by rfl) fun l => ⟨l.parcels, ⟨fun j e _ => ?_, fun j _ e => ?_⟩⟩
  · simp only [Option.map_eq_some_iff] at e
    obtain ⟨k, hk, rfl⟩ := e
    exact l.pump.fits k hk hp
  · exact absurd (hp.symm.trans e) (by decide)

theorem pulse_kept (h : Kept r s) (c : Chan) : Kept r (pulse c s) := by
  unfold pulse
  split
  · rename_i hp
    dsimp only
    split
    · exact finish_kept (completeRefill_kept (countPulse_kept h c hp.2) c)
    · exact countPulse_kept h c hp.2
  · exact h

theorem faultRefill_kept (h : Kept r s) (c : Chan) (j : RefillJob) : Kept r (faultRefill c j s) := by
  unfold faultRefill
  exact h.trans (handOn_kept (((mapSlot_pour (updateIndication_pour (take_pour (.refl c s))) _).still
    (raise_kept (.refl _) _) (raise_aside _ _).still).still (haltUpdate_kept (.refl _)) (haltUpdate_still _)))

theorem refillExpires_kept (h : Kept r s) (c : Chan) : Kept r (refillExpires c s) := by
  unfold refillExpires
  split
  · split
    · exact finish_kept (faultRefill_kept (timeTo_kept h _) c _)
    · exact h
  · exact h

theorem runDry_kept (h : Kept r s) (c : Chan) : Kept r (runDry c s) :=
  h.trans (handOn_kept (endRefill_pour (updateIndication_pour (makeSpent_pour (setRemaining_pour (take_pour (.refl c s))
    _)))))

theorem drySensed_kept (h : Kept r s) (c : Chan) : Kept r (drySensed c s) := by
  unfold drySensed
  split
  · exact finish_kept (runDry_kept h c)
  · exact h

/-! ## Media and cutter events -/

theorem flushExpires_kept (h : Kept r s) : Kept r (flushExpires s) := by
  unfold flushExpires
  split
  · exact h
  · exact finish_kept (Kept.ofQueue (timeTo_kept h _) _)

theorem arrival_kept (h : Kept r s) : Kept r (arrival s) := by
  unfold arrival
  split
  · exact finish_kept (arrive_kept h)
  · exact h

theorem movementExpires_kept (h : Kept r s) : Kept r (movementExpires s) := by
  unfold movementExpires
  split
  · exact h
  · exact finish_kept (faultTransport_kept (timeTo_kept h _) _)

theorem driverFaults_kept (h : Kept r s) : Kept r (driverFaults s) := by
  unfold driverFaults
  split
  · exact h
  · exact finish_kept (faultTransport_kept h _)

theorem rollPresentTakes_kept (h : Kept r s) (level : Bool) : Kept r (rollPresentTakes level s) := by
  unfold rollPresentTakes
  split
  · exact h
  · exact refreshPanel_kept (rollNotice_kept (h.ofInputs _) _)

theorem setRollEnd_kept (h : Kept r s) (b : Bool) : Kept r (setRollEnd b s) := h.ofInputs _

theorem rollEndTrips_kept (h : Kept r s) : Kept r (rollEndTrips s) := by
  unfold rollEndTrips
  dsimp only
  split
  · exact finish_kept (rollEnds_kept (setRollEnd_kept h _))
  · exact refreshPanel_kept (rollNotice_kept (setRollEnd_kept h _) _)

theorem flapSettles_kept (h : Kept r s) : Kept r (flapSettles s) := by
  have hi : Kept r (flapRead { s with inputs := { s.inputs with flapSettled := true } }) := flapRead_kept (h.ofInputs _)
  unfold flapSettles
  dsimp only
  split
  · exact fireBlade_kept hi
  · exact hi

theorem settleExpires_kept (h : Kept r s) : Kept r (settleExpires s) := by
  unfold settleExpires
  split
  · exact h
  · exact finish_kept (failCut_kept (timeTo_kept h _) _)

theorem setHome_kept (h : Kept r s) (b : Bool) : Kept r (setHome b s) := h.ofInputs _

theorem bladeReturns_kept (h : Kept r s) : Kept r (bladeReturns s) := by
  unfold bladeReturns
  dsimp only
  split
  · exact finish_kept (completeCut_kept (setHome_kept h _))
  · exact setHome_kept h _

theorem bladeExpires_kept (h : Kept r s) : Kept r (bladeExpires s) := by
  unfold bladeExpires
  split
  · exact h
  · exact finish_kept (failCut_kept (timeTo_kept h _) _)

theorem bladeLeaves_kept (h : Kept r s) : Kept r (bladeLeaves s) := by
  unfold bladeLeaves
  dsimp only
  split
  · exact mapCutter_kept (setHome_kept h _) _
  · exact setHome_kept h _

/-! ## The links -/

theorem mapLink_kept (h : Kept r s) (l : Link) (f : LinkState → LinkState) : Kept r (s.mapLink l f) := by
  cases l <;> exact h.ofLinks _

theorem countFault_kept (h : Kept r s) (l : Link) (cause : FrameFault) : Kept r (countFault l cause s) := by
  unfold countFault
  dsimp only
  split
  · exact raise_kept (mapLink_kept h _ _) _
  · exact mapLink_kept h _ _

theorem discardFrame_kept (h : Kept r s) (l : Link) (cause : FrameFault) : Kept r (discardFrame l cause s) :=
  countFault_kept (mapLink_kept h _ _) _ _

theorem gapExpires_kept (h : Kept r s) (l : Link) : Kept r (gapExpires l s) := by
  unfold gapExpires
  split
  · exact discardFrame_kept (timeTo_kept h _) _ _
  · exact discardFrame_kept h _ _

theorem receiveFrame_kept (h : Kept r s) (f : Frame) : Kept r (receiveFrame f s) := by
  unfold receiveFrame
  split
  · rename_i hl
    refine h.ofControl _ rfl (fun _ => rfl) id fun _ => ?_
    simp only [Config.receiveRoom] at hl
    simp
    omega
  · exact countFault_kept h _ _

theorem goOn_kept (h : Kept r s) (l : Link) (v : Receiver) : Kept r (goOn l v s) := mapLink_kept h _ _

end Sys2Proof.Machine
end

