-- ==== Sys2Proof/Tests/Slice0.lean ====
section
/-! SUPPORT. Tests by evaluation: ill-formed terms, frames written out from section 10.8, the worked examples of the
manual one step at a time, and for each statement with hypotheses a state and operands that meet them all. Expected
values are the manual's own, or hand calculation from its rules. -/

namespace Sys2Proof.Tests

open Sys2Proof Sys2Proof.Machine

set_option Elab.async false

/-! ## Small states -/

/-- The state an outcome leaves. -/
def after (s : State) (c : Instr) : State :=
  match exec c s with
  | .next t => t
  | _ => s

/-- The last frame of the send list. -/
def lastSent (s : State) : Option ControlFrame := s.control.sendList.getLast?

/-- A part that has started up, with empty sub-tanks and no roll. -/
def powered : State := { State.reset with startUp := .running }

/-- The part at an access level. -/
def levelled (l : AccessLevel) : State := { powered with control := { powered.control with level := l } }

/-- A description of a PROOF print without a strip. -/
def proofDesc : PrintDescription :=
  { jobTag := 77, kindCode := 2, hold := false, editionId := none, refSet := none, mediaType := 4, imageWidth := 900
    spanLength := 5000, estimates := Vector.replicate 12 1000 }

/-- A PROOF print with a handle, in a state. -/
def proof (h : Nat) (st : PrintState) : PrintRecord := { newPrint h .proof proofDesc none with state := st }

/-- The part with prints in its queue. -/
def withPrints (ps : List PrintRecord) : State := { powered with queue := { powered.queue with prints := ps } }

/-- The worked sequence's roll of 30,000 mm. -/
def roll30m : RollGeometry := ⟨4, 1118, 9, 301800, 1800, 1830, 1800⟩

/-- A transport with a VERIFIED roll. -/
def verified : MediaTransport := { MediaTransport.initial with rollState := .verified, roll := roll30m }

/-- The part with a transport. -/
def withMedia (m : MediaTransport) : State := { powered with media := m }

/-- Channel 3 of the worked swath (chapter 3.3): 12,002,500 nL in seven parcels, a USABLE cartridge. -/
def channel3 : Channel :=
  { Channel.delivered 3 with
    level := 12002500, slot := .usable, cartridge := some ⟨40388, 4, 3, 700000000, 300000000, true, 5⟩
    parcels := ⟨2500, 812000, 3, 1⟩ :: List.replicate 6 ⟨2000000, 845000, 3, 2⟩, indication := .normal }

/-- The part with one channel's record. -/
def withChannel (c : Chan) (ch : Channel) : State :=
  { powered with ink := { powered.ink with channels := powered.ink.channels.set c ch } }

/-- An edition entry of reference set 7 and media type 4. -/
def edition (st : EditionState) : Edition := { newEdition 5001 [0x48#8] 3 1 7 4 12 with state := st }

/-- The part at STUDIO with one edition entry. -/
def withEdition (st : EditionState) : State :=
  { levelled .studio with registry := ⟨[edition st], []⟩ }

/-- A patch that is not critical. -/
def patch (l a b : Int) : Patch := ⟨l, a, b, false⟩

/-- The six patches of chapter 6's worked case. -/
def sixPatches : List Patch :=
  [patch 5230 (-310) 1245, patch 7410 210 (-560), patch 3120 1540 880, patch 9050 (-40) 120, patch 2010 (-2240) 1730,
   patch 4500 0 0]

/-- Its six readings. -/
def sixReadings : List Reading :=
  [⟨5268, -281, 1199⟩, ⟨7532, 290, -488⟩, ⟨3075, 1602, 905⟩, ⟨9081, -12, 97⟩, ⟨1988, -2195, 1761⟩, ⟨10450, 12, -8⟩]

/-- The part at STUDIO with reference set 7 in a mode. -/
def withSet (mode : RefMode) : State :=
  { levelled .studio with
    colour := { powered.colour with sets := powered.colour.sets.set 7 ⟨sixPatches, 150, 300, mode⟩ } }

/-- The scan of chapter 6's worked case. -/
def scanJob : ScanJob := ⟨31, 7, sixPatches, 150, 300, -20⟩

/-- The part with that scan in flight. -/
def scanningState : State :=
  { powered with colour := { powered.colour with spectro := .scanning 2 0 9000 false scanJob false } }

/-- A print that has become ACTIVE on the worked roll. -/
def activePrint : PrintRecord :=
  { proof 1 .active with span := some ⟨1830, 6830⟩, snapshot := some ⟨4, 1118, 5000, 18500000⟩, lastSwath := some 0 }

/-- Every channel with ink enough. -/
def fullChannels : PerChan Channel :=
  Vector.ofFn fun c : Chan =>
    { Channel.delivered c with level := 39000000, parcels := [⟨39000000, 800000, 3, 1⟩], indication := .normal }

/-- The open-print marker of a print. -/
def markerOf (p : PrintRecord) : OpenMarker :=
  ⟨p.handle, p.jobTag, p.kind, p.editionId, p.reservation, p.snapshotAtClose⟩

/-- A part that prints: ink, a roll, a list in order, an ACTIVE print with its marker, the silence timer running. -/
def printing : State :=
  { powered with
    pending := [.printQuery 1 none]
    store := { powered.store with openPrint := some (markerOf activePrint) }
    queue := { powered.queue with prints := [activePrint] }
    ink := { powered.ink with channels := fullChannels }
    media := { verified with
      hold := .engine 1, state := .heldByEngine
      stations := [stationAt .scan 9765 (some 1) none, stationAt .cutTrail 9920 (some 1) none] }
    engine := { EngineLink.initial .empty with state := .printing, silence := some 30000, halt := false }
    control := { powered.control with lit := #v[false, false, true, false] } }

/-- A cost record. -/
def record (sequence : Nat) : CostRecord := costRecordOf activePrint .accepted sequence false

/-- The part with two cost records. -/
def withLog : State := { powered with cost := { powered.cost with log := [record 7301, record 7302], sequence := 7302 } }

/-- A print of edition 5001 with its strip. -/
def editionPrint (st : PrintState) : PrintRecord :=
  { activePrint with kind := .edition, editionId := some 5001, refSet := some 7, state := st }

/-- The edition's entry one print short of its limit of 3, that print in flight, its artist's proof accepted. -/
def lastButOne : Edition := { edition .opened with accepted := 2, inFlight := 1, apAccepted := 1 }

/-- A part that prints the last print of an edition. -/
def sold : State :=
  { printing with
    queue := { printing.queue with prints := [editionPrint .active] }
    store := { printing.store with openPrint := some (markerOf (editionPrint .active)) }
    registry := ⟨[lastButOne], [5000]⟩ }

/-- A refill of channel 3 under way. -/
def job : RefillJob := ⟨2000000, 0, 845000, 3, 40388, 39999, false, some 9000⟩

/-- Channel 3 while it refills, its pulses one short of the target. -/
def refilling : State := withChannel 3 { channel3 with refill := .pumping, job := some job, pumpRun := true }

/-! ## Ill-formed terms (each field of each command against its bytes, section 10.8) -/

/-- Commands whose tag does not fit one byte. -/
def wideTags1 : List Instr :=
  [.access 256 0 0, .passwordSet 256 1 0, .ident 256 true, .date 256 1, .setInkMargin 256 0, .setUncheckedPolicy 256 0,
   .setNoticeMask 256 0, .setLamp 256 0, .setHaltRouting 256 0, .setAttnRouting 256 0, .settingsQuery 256, .reset 256,
   .factoryRestore 256, .clearFaultChannel 256 0, .clearFaultTransport 256, .clearFaultVerdictLatch 256]

/-- Commands whose tag does not fit one byte. -/
def wideTags2 : List Instr :=
  [.printSubmit 256 proofDesc, .printRelease 256 1, .printCancel 256 1, .printQuery 256 none, .channelColour 256 0 1,
   .inkQuery 256 none, .trimSet 256 0 4096, .dropRowSet 256 0 1 1 1, .manualModeSet 256 0 0, .meterQuery 256 none,
   .rollLoad 256 0 254 1 1, .rollConfirm 256, .move 256 1, .rollQuery 256, .cutAt 256 1 0, .cutNow 256 0]

/-- Commands whose tag does not fit one byte. -/
def wideTags3 : List Instr :=
  [.cutQuery 256, .referenceLoad 256 0 4 [] 50 50, .referenceSeal 256 0, .referenceQuery 256 0, .calibrate 256,
   .colourQuery 256, .editionOpen 256 1 [] 1 0 0 0, .editionHold 256 1, .editionResume 256 1, .editionClose 256 1,
   .editionArchive 256 1, .editionQuery 256 none, .closedQuery 256 0, .tariffSet 256 0 0, .mediaSet 256 0 [] 0 0]

/-- Commands whose tag does not fit one byte. -/
def wideTags4 : List Instr :=
  [.costRead 256, .costDrop 256 1, .priceQueryTariff 256, .priceQueryMedia 256, .priceQueryLog 256,
   .engineQuery 256, .unknownKind 256 0x7F, .engineReady 256, .swath 256 ⟨1, 1, 0, Vector.replicate 12 ⟨0, 0, 0⟩⟩,
   .feedAsk 256 1 1, .printDone 256 1, .printFail 256 1 0, .engineUnknownKind 256 0x50, .calibrated 256,
   .calibrationFault 256 0, .readings 256 [], .scanFault 256 0]

theorem test_wf_refuses_wide_tags :
    (wideTags1 ++ wideTags2 ++ wideTags3 ++ wideTags4).all (fun c => !c.wf) = true := by decide +kernel

/-- Commands with a field that does not fit its bytes. -/
def wideFields1 : List Instr :=
  [.access 0 256 0, .access 0 0 4294967296, .passwordSet 0 256 0, .passwordSet 0 1 4294967296, .date 0 65536,
   .clearFaultChannel 0 256, .printRelease 0 256, .printCancel 0 256, .printQuery 0 (some 256), .printQuery 0 (some 0),
   .channelColour 0 256 1, .channelColour 0 0 256, .inkQuery 0 (some 256), .inkQuery 0 (some 255), .trimSet 0 256 0,
   .trimSet 0 0 65536, .dropRowSet 0 256 0 0 0, .dropRowSet 0 0 65536 0 0, .dropRowSet 0 0 0 65536 0]

/-- Commands with a field that does not fit its bytes. -/
def wideFields2 : List Instr :=
  [.dropRowSet 0 0 0 0 65536, .manualModeSet 0 256 0, .manualModeSet 0 0 256, .meterQuery 0 (some 256),
   .meterQuery 0 (some 255), .rollLoad 0 256 0 0 0, .rollLoad 0 0 65536 0 0, .rollLoad 0 0 0 4294967296 0,
   .rollLoad 0 0 0 0 4294967296, .move 0 4294967296, .cutAt 0 4294967296 0, .cutAt 0 0 256, .cutNow 0 256,
   .referenceSeal 0 256, .referenceQuery 0 256]

/-- Commands with a field that does not fit its bytes. -/
def wideFields3 : List Instr :=
  [.referenceLoad 0 256 4 [] 0 0, .referenceLoad 0 0 256 [] 0 0, .referenceLoad 0 0 4 [] 65536 0,
   .referenceLoad 0 0 4 [] 0 65536, .referenceLoad 0 0 1 [patch (-1) 0 0] 50 50,
   .referenceLoad 0 0 1 [patch 0 32768 0] 50 50, .referenceLoad 0 0 1 [patch 0 0 (-32769)] 50 50,
   .referenceLoad 0 0 1 (List.replicate 146 (patch 0 0 0)) 50 50]

/-- Commands with a field that does not fit its bytes. -/
def wideFields4 : List Instr :=
  [.editionOpen 0 4294967296 [] 1 0 0 0, .editionOpen 0 1 [] 65536 0 0 0, .editionOpen 0 1 [] 1 256 0 0,
   .editionOpen 0 1 [] 1 0 256 0, .editionOpen 0 1 [] 1 0 0 256, .editionOpen 0 1 (List.replicate 1016 0#8) 1 0 0 0,
   .editionHold 0 4294967296, .editionResume 0 4294967296, .editionClose 0 4294967296,
   .editionArchive 0 4294967296, .editionQuery 0 (some 4294967296), .editionQuery 0 (some 0),
   .closedQuery 0 65536]

theorem test_wf_refuses_wide_fields :
    (wideFields1 ++ wideFields2 ++ wideFields3 ++ wideFields4).all (fun c => !c.wf) = true := by decide +kernel

/-- Commands with a field of their record that does not fit its bytes. -/
def wideRecords1 : List Instr :=
  [.tariffSet 0 256 0, .tariffSet 0 0 4294967296, .mediaSet 0 256 [] 0 0, .mediaSet 0 0 [] 4294967296 0,
   .mediaSet 0 0 [] 0 32768, .mediaSet 0 0 (List.replicate 1018 0#8) 0 0, .costDrop 0 4294967296,
   .unknownKind 0 256, .unknownKind 0 0x3D, .engineUnknownKind 0 256, .engineUnknownKind 0 0x44,
   .overrun ⟨0#8, 0#8, List.replicate 1025 0#8⟩, .spectroFrameIgnored ⟨0#8, 0#8, List.replicate 1025 0#8⟩]

/-- Commands with a field of their record that does not fit its bytes. -/
def wideRecords2 : List Instr :=
  [.printSubmit 0 { proofDesc with jobTag := 4294967296 }, .printSubmit 0 { proofDesc with kindCode := 256 },
   .printSubmit 0 { proofDesc with editionId := some 4294967296 }, .printSubmit 0 { proofDesc with refSet := some 256 },
   .printSubmit 0 { proofDesc with mediaType := 256 }, .printSubmit 0 { proofDesc with imageWidth := 65536 },
   .printSubmit 0 { proofDesc with spanLength := 4294967296 },
   .printSubmit 0 { proofDesc with estimates := Vector.replicate 12 4294967296 }]

/-- Commands with a field of their record that does not fit its bytes. -/
def wideRecords3 : List Instr :=
  [.swath 0 ⟨256, 0, 0, Vector.replicate 12 ⟨0, 0, 0⟩⟩, .swath 0 ⟨0, 65536, 0, Vector.replicate 12 ⟨0, 0, 0⟩⟩,
   .swath 0 ⟨0, 0, 32768, Vector.replicate 12 ⟨0, 0, 0⟩⟩, .swath 0 ⟨0, 0, 0, Vector.replicate 12 ⟨16777216, 0, 0⟩⟩,
   .swath 0 ⟨0, 0, 0, Vector.replicate 12 ⟨0, 16777216, 0⟩⟩, .swath 0 ⟨0, 0, 0, Vector.replicate 12 ⟨0, 0, 16777216⟩⟩,
   .feedAsk 0 256 0, .feedAsk 0 0 65536, .printDone 0 256, .printFail 0 256 0, .printFail 0 0 256]

/-- Commands with a field of their record that does not fit its bytes. -/
def wideRecords4 : List Instr :=
  [.calibrationFault 0 256, .scanFault 0 256, .readings 0 [⟨32768, 0, 0⟩], .readings 0 [⟨0, -32769, 0⟩],
   .readings 0 [⟨0, 0, 32768⟩], .readings 0 (List.replicate 171 ⟨0, 0, 0⟩),
   .tagReadDone (some ⟨4294967296, 1, 0, 0, 0, false, 0⟩),
   .tagReadDone (some ⟨0, 1, 0, 0, 0, false, 65536⟩)]

theorem test_wf_refuses_wide_records :
    (wideRecords1 ++ wideRecords2 ++ wideRecords3 ++ wideRecords4).all (fun c => !c.wf) = true := by decide +kernel

/-! ## Frames written out from section 10.8 -/

theorem test_decode_access : decodeControl ⟨0x01#8, 9#8, [0x02#8, 0x78#8, 0x56#8, 0x34#8, 0x12#8]⟩ =
    .command (.access 9 2 0x12345678) := by decide

theorem test_decode_setting_margin : decodeControl ⟨0x05#8, 1#8, [0#8, 25#8, 0#8, 0#8, 0#8]⟩ =
    .command (.setInkMargin 1 25#32) := by decide

theorem test_decode_clear_fault_channel : decodeControl ⟨0x09#8, 1#8, [0#8, 11#8]⟩ =
    .command (.clearFaultChannel 1 11) := by decide

theorem test_decode_roll_load :
    decodeControl ⟨0x20#8, 3#8, [4#8, 0x5E#8, 0x04#8, 0x30#8, 0x75#8, 0#8, 0#8, 1#8, 0#8, 0#8, 0x80#8]⟩ =
      .command (.rollLoad 3 4 1118 30000 0x80000001) := by decide

theorem test_decode_cut_at : decodeControl ⟨0x24#8, 1#8, [0xC0#8, 0x26#8, 0#8, 0#8, 1#8]⟩ =
    .command (.cutAt 1 9920 1) := by decide

theorem test_decode_edition_open :
    decodeControl ⟨0x30#8, 5#8, [0x89#8, 0x13#8, 0#8, 0#8, 3#8, 0#8, 1#8, 7#8, 4#8, 0x48#8, 0x69#8]⟩ =
      .command (.editionOpen 5 5001 [0x48#8, 0x69#8] 3 1 7 4) := by decide

theorem test_decode_media_set :
    decodeControl ⟨0x39#8, 6#8, [4#8, 0xA0#8, 0x49#8, 0x1A#8, 0x01#8, 0xEC#8, 0xFF#8, 0x43#8]⟩ =
      .command (.mediaSet 6 4 [0x43#8] 18500000 (-20)) := by decide

theorem test_decode_reference :
    decodeControl ⟨0x28#8, 6#8, [7#8, 1#8, 0x96#8, 0#8, 0x2C#8, 1#8, 0x6E#8, 0x14#8, 0xCA#8, 0xFE#8, 0xDD#8, 4#8, 1#8]⟩ =
      .command (.referenceLoad 6 7 1 [⟨5230, -310, 1245, true⟩] 150 300) := by decide

theorem test_decode_submit : decodeControl ⟨0x10#8, 2#8,
      [77#8, 0#8, 0#8, 0#8, 0#8, 6#8, 0x89#8, 0x13#8, 0#8, 0#8, 7#8, 4#8, 0x84#8, 0x03#8, 0x7C#8, 0x1F#8, 0#8, 0#8] ++
      [1#8, 0#8, 0#8, 0#8] ++ List.replicate 40 0#8 ++ [0#8, 0#8, 0#8, 2#8]⟩ =
    .command (.printSubmit 2 ⟨77, 0, some 5001, some 7, 4, 900, 8060,
      #v[1, 0, 0, 0, 0, 0, 0, 0, 0, 0, 0, 33554432], false⟩) := by decide

theorem test_decode_malformed : decodeControl ⟨0x01#8, 9#8, [0x02#8]⟩ = .malformed 9 1 := by decide

theorem test_decode_outside_list : decodeControl ⟨0x05#8, 9#8, [6#8, 0#8, 0#8, 0#8, 0#8]⟩ =
    .outsideList 9 5 .studio := by decide

theorem test_decode_unknown_kind : decodeControl ⟨0x7F#8, 9#8, []⟩ = .command (.unknownKind 9 0x7F) := by decide

theorem test_decode_swath : decodeEngine ⟨0x41#8, 4#8,
      [12#8, 118#8, 0#8, 0x3A#8, 0x01#8] ++ List.replicate 27 0#8 ++
      [0x80#8, 0x4F#8, 0x12#8, 0x30#8, 0x57#8, 0x05#8, 0x80#8, 0x38#8, 0x01#8] ++ List.replicate 72 0#8⟩ =
    .command (.swath 4 ⟨12, 118, 314, #v[⟨0, 0, 0⟩, ⟨0, 0, 0⟩, ⟨0, 0, 0⟩, ⟨1200000, 350000, 80000⟩, ⟨0, 0, 0⟩,
      ⟨0, 0, 0⟩, ⟨0, 0, 0⟩, ⟨0, 0, 0⟩, ⟨0, 0, 0⟩, ⟨0, 0, 0⟩, ⟨0, 0, 0⟩, ⟨0, 0, 0⟩]⟩) := by decide

theorem test_decode_feed_ask : decodeEngine ⟨0x42#8, 4#8, [12#8, 0x28#8, 0x23#8]⟩ =
    .command (.feedAsk 4 12 9000) := by decide

theorem test_decode_readings :
    decodeSpectro ⟨0xE2#8, 2#8, [0x94#8, 0x14#8, 0xE7#8, 0xFE#8, 0xAF#8, 0x04#8]⟩ =
      .readings 2 [⟨5268, -281, 1199⟩] := by decide

theorem test_frame_bytes : (Frame.toBytes ⟨0x06#8, 1#8, []⟩).take 5 = [0xA5#8, 0#8, 0#8, 0x06#8, 1#8] := by decide

/-- A reply carries the code and the kind of its request under its tag (R181); the query of an OPEN set begins with its
mode, and gives the set as its load does. -/
theorem test_reply_bytes :
    (ControlFrame.reply 9 .range 0x05 .none).toFrame = ⟨0x80#8, 9#8, [4#8, 5#8]⟩ ∧
    (ControlFrame.reply 6 .ok 0x2A (.refSet 7 .sealed [⟨5230, -310, 1245, true⟩] (some (150, 300)))).toFrame =
      ⟨0x80#8, 6#8, [0#8, 0x2A#8, 2#8, 7#8, 1#8, 0x96#8, 0#8, 0x2C#8, 1#8, 0x6E#8, 0x14#8, 0xCA#8, 0xFE#8, 0xDD#8, 4#8,
        1#8]⟩ := by decide +kernel

/-- A flushed notice ENGINE and a deferred one: kind 99h, tag 0, the count, the flags (R184). -/
theorem test_notice_bytes :
    let f := fun flushed deferred => (ControlFrame.notice 3 flushed deferred (.engine .haltOff .idle)).toFrame
    ((f true false).kind, (f true false).tag, (f true false).body.take 2) = (0x99#8, 0#8, [3#8, 1#8]) ∧
    (f false true).body.take 2 = [3#8, 2#8] := ⟨rfl, rfl⟩

/-- The cost record of section 10.8 is 241 bytes: its number, handle, tag, kind, the present bits, the flags. -/
theorem test_cost_record_bytes :
    (record 7301).bytes.length = 241 ∧
    (record 7301).bytes.take 11 = [0x85#8, 0x1C#8, 0#8, 0#8, 1#8, 77#8, 0#8, 0#8, 0#8, 2#8, 0#8] := by decide +kernel

/-! ## The worked examples, and one step each -/

/-- R60: 3,000,001 nL at 5 percent reserves 3,150,002 nL. -/
theorem test_reservation_rounds_up : reservationFor 3000001 5 = 3150002 := by decide +kernel

/-- Chapter 3.2: 314 tenths give row 10, which holds 180, 420 and 1050 cpL. -/
theorem test_row_of_worked_swath :
    (rowOfTemperature 314).val = 10 ∧ factoryDropRow 10 = ⟨180, 420, 1050⟩ := by decide +kernel

/-- Chapter 3.3, one swath on channel 3: debit 4603, residue 207,200,000. -/
theorem test_debit_of_worked_swath :
    let total := trimmedTotal ⟨180, 420, 1050⟩ ⟨1200000, 350000, 80000⟩ 4218 150000000
    debitOf total = 4603 ∧ residueOf total = 207200000 := by decide +kernel

/-- Chapter 3.3: the draw removes parcel A and takes 2103 nL of B. -/
theorem test_draw_of_worked_swath :
    (channel3.afterDraw 4603).level = 11997897 ∧ (channel3.afterDraw 4603).lastPrice = 812000 ∧
    ((channel3.afterDraw 4603).parcels.map (·.volume)).head? = some 1997897 ∧
    channel3.drawCost 4603 = 3807035000 := by decide +kernel

/-- Chapter 3.5, the overdraw: 1,650,000 nL from 1,400,000 in two parcels. -/
theorem test_overdraw_prices_the_excess :
    let ch : Channel := { Channel.delivered 8 with level := 1400000
                                                   parcels := [⟨300000, 790000, 0, 1⟩, ⟨1100000, 820000, 0, 1⟩] }
    ch.drawCost 1650000 = 1344000000000 ∧ (ch.afterDraw 1650000).level = 0 ∧ ch.overdrawn 1650000 = true := by
  decide +kernel

/-- R38: the 40,000th pulse of 50 nL completes a refill of 2,000,000 nL. -/
theorem test_last_pulse_completes_the_refill :
    ((after refilling (.flowPulse 3)).channel 3).level = 14002500 ∧
    (((after refilling (.flowPulse 3)).channel 3).cartridge.map (·.remaining)) = some 298000000 := by decide +kernel

/-- R40: the timeout takes 39,999 pulses' ink and leaves FAULT. -/
theorem test_refill_timeout_takes_and_faults :
    ((after refilling (.refillTimeout 3)).channel 3).level = 14002450 ∧
    ((after refilling (.refillTimeout 3)).channel 3).refill = .fault := by decide +kernel

/-- R41: a pump that runs dry leaves the cartridge SPENT with nothing in it. -/
theorem test_dry_sense_spends_the_cartridge :
    ((after refilling (.drySense 3)).channel 3).slot = .spent ∧
    (((after refilling (.drySense 3)).channel 3).cartridge.map (·.remaining)) = some 0 := by decide +kernel

/-- R29: a tag read of another colour is REFUSED. -/
theorem test_wrong_colour_is_refused :
    let s := after powered (.cartridgeInserted 5)
    ((after s (.tagReadDone (some ⟨40388, 7, 3, 700000000, 700000000, false, 0⟩))).channel 5).slot =
      .refused .colour := by decide +kernel

/-- R31: a good FRESH cartridge is USABLE, and its marking write waits. -/
theorem test_fresh_cartridge_is_marked :
    let s := after (after powered (.cartridgeInserted 5)) (.tagReadDone (some ⟨40388, 6, 3, 700000000, 700000000, false, 0⟩))
    (s.channel 5).slot = .usable ∧ s.ink.tagQueue = [.mark 5 0] := by decide +kernel

/-- Chapter 6, judging a six-patch strip: WARN, largest ΔE 162 on patch 2, one over warn, one invalid. -/
theorem test_six_patches_warn :
    let r := completedResult scanJob 2 false 41000 sixReadings
    r.verdict = .warn ∧ r.largest = some (162, 2) ∧ r.overWarn = 1 ∧ r.overFail = 0 ∧ r.invalid = 1 := by
  decide +kernel

/-- Chapter 6: the same strip with patch 2 critical is FAIL. -/
theorem test_critical_patch_fails :
    (completedResult { scanJob with patches := sixPatches.set 1 ⟨7410, 210, -560, true⟩ } 2 false 41000
      sixReadings).verdict = .fail := by decide +kernel

/-- Chapter 6: patch 2 within warn gives PASS with largest ΔE 86, and WARN for a gap of 125,000 ms. -/
theorem test_long_gap_downgrades :
    let list := sixReadings.set 1 ⟨7480, 250, -530⟩
    (completedResult scanJob 2 false 41000 list).verdict = .pass ∧
    (completedResult scanJob 2 false 41000 list).largest = some (86, 2) ∧
    (completedResult scanJob 2 false 125000 list).verdict = .warn := by decide +kernel

/-- Chapter 6: three invalid readings give UNCHECKED, with the largest ΔE of the others. -/
theorem test_three_invalid_readings :
    let r := completedResult scanJob 2 false 41000 ((sixReadings.set 3 ⟨10001, 0, 0⟩).set 4 ⟨0, 12701, 0⟩)
    r.verdict = .unchecked ∧ r.largest = some (162, 2) := by decide +kernel

/-- Chapter 8, pricing a print at close. -/
theorem test_costs_of_worked_close :
    [977954124000, 3807035000, 1662895000000, 2400000, 2500000].map inkCost = [977954, 3807, 1662895, 2, 3] ∧
    mediaCost ⟨4, 1118, 8060, 18500000⟩ = 16670498 := by decide +kernel

/-- Chapter 11, power lost during a print: the reconciliation's record. -/
theorem test_reconciliation_of_worked_loss :
    let m : OpenMarker := ⟨17, 1, .edition, some 6100, #v[0, 0, 900000, 0, 0, 0, 3000000, 0, 0, 0, 0, 0],
      ⟨4, 1118, 8060, 18500000⟩⟩
    let two : Channel := { Channel.delivered 2 with level := 1250000
                                                    parcels := [⟨400000, 800000, 0, 1⟩, ⟨850000, 820000, 0, 2⟩] }
    let six : Channel := { Channel.delivered 6 with level := 2600000, parcels := [⟨2600000, 845000, 0, 3⟩] }
    let r := reconcileRecord m ((powered.ink.channels.set 2 two).set 6 six) 7418
    r.inkCosts[2] = 730000 ∧ r.inkCosts[6] = 2197000 ∧ r.mediaCost = 16670498 ∧ r.total = 19597498 ∧
    r.consumed[6] = 2600000 := by decide +kernel

/-- R203: with empty sub-tanks the part comes up with HALT asserted, and an automatic calibration is sent (R114). -/
theorem test_power_on :
    (after State.reset (.powerOn levelsAtReset)).startUp = .running ∧
    (after State.reset (.powerOn levelsAtReset)).engine.halt = true ∧
    (after State.reset (.powerOn levelsAtReset)).colour.sent = [.calibrate 1] := by decide +kernel

/-- Chapter 1: ROLL_LOAD of 30,000 mm. -/
theorem test_roll_load :
    let s := { powered with inputs := { levelsAtReset with rollPresent := true, rollEndMedia := true } }
    (after s (.rollLoad 1 4 1118 30000 9)).media.roll = roll30m := by decide +kernel

/-- Chapter 1: the start of handle 1 lists its SCAN and its trailing cut, moves A to 9950 and H toward 1830. -/
theorem test_start_of_worked_sequence :
    let p := { proof 1 .ready with kind := .edition, refSet := some 7, spanLength := 8060 }
    let s := { withMedia verified with
      queue := { powered.queue with prints := [p], readyOrder := [1] }
      ink := { powered.ink with channels := fullChannels }
      engine := { powered.engine with halt := false } }
    let t := after s (.engineReady 9)
    t.media.stations.map (·.trigger) = [10715, 11720] ∧ t.media.roll.alloc = 9950 ∧
    t.media.movement.map (·.target) = some 1830 := by decide +kernel

/-- Chapter 11: CUT_NOW at H = 42,220 cuts at 40,420, at once. The flap crosses to the BASKET first (R91). -/
theorem test_cut_now_at_the_blade :
    let s := withMedia { verified with rollState := .unverified, roll := ⟨4, 1118, 9, 301800, 42220, 48370, 40220⟩ }
    (after s (.cutNow 1 0)).cutter.current.map (·.position) = some 40420 ∧
    (after s (.cutNow 1 0)).cutter.state = .settingChute ∧
    (after (after s (.cutNow 1 0)) .flapSettled).cutter.state = .cutting := by decide +kernel

/-- Chapter 11: ROLL_CONFIRM keeps L − H. -/
theorem test_roll_confirm_rebases :
    let s := { withMedia { verified with rollState := .unverified, roll := ⟨4, 1118, 9, 301800, 42220, 48370, 40220⟩ }
      with inputs := { levelsAtReset with rollPresent := true } }
    (after s (.rollConfirm 1)).media.roll = ⟨4, 1118, 9, 261380, 1800, 1830, 1800⟩ := by decide +kernel

/-- R84: the tail comes 1800 dmm beyond the sensor's reach of the head point; see Config. -/
theorem test_roll_end_sets_the_tail :
    (after (withMedia verified) .rollEnd).media.rollState = .ended ∧
    (after (withMedia verified) .rollEnd).media.roll.tail = 1800 + Config.endSensorOffset := by decide +kernel

/-- Chapter 9: at the silence timeout the print is spoiled, its handle stopped, and HALT rises. -/
theorem test_silence_timeout :
    (after printing .silenceTimeout).engine.stopped = some 1 ∧
    (after printing .silenceTimeout).engine.state = .idle ∧
    (after printing .silenceTimeout).engine.lost = true := by decide +kernel

/-- R170: PRINT_DONE of a print without a strip leaves it SEPARATE and ACCEPTED. -/
theorem test_print_done :
    (after printing (.printDone 5 1)).queue.prints.map (fun p => (p.state, p.outcome)) =
      [(.separate, some .accepted)] := by decide +kernel

/-- R22: cancelling the ACTIVE print spoils it. -/
theorem test_cancel_spoils :
    (after printing (.printCancel 5 1)).queue.prints.map (fun p => (p.state, p.outcome)) =
      [(.travel, some .spoiled)] := by decide +kernel

/-- Chapter 10: two masked notices count 2 and keep the later body. -/
theorem test_masked_notices_count :
    let s := powered.mapNotice .ink fun n => { n with mask := true }
    let t := raise (.ink 9 .low 1 1 1 false) (raise (.ink 4 .low 1 1 1 false) s)
    (t.notice .ink).pending = 2 ∧ (t.notice .ink).kept = some (.ink 9 .low 1 1 1 false) ∧ t.control.sendList = [] := by
  decide +kernel

/-- Chapter 10: a garbled frame raises the counter and sends FRAME_FAULT with it. -/
theorem test_garbled_frame :
    lastSent (after powered (.frameCheckFault .control)) = some (.notice 1 false false (.frameFault .check 1)) := by
  decide +kernel

/-- R8: a margin of 26 is refused RANGE. -/
theorem test_margin_above_25 :
    lastSent (after (levelled .studio) (.setInkMargin 3 26#32)) = some (.reply 3 .range 0x05 .none) := by decide +kernel

/-- R187: a wrong password is DENIED and leaves OPERATOR. -/
theorem test_wrong_password :
    lastSent (after (levelled .studio) (.access 3 2 1)) = some (.reply 3 .denied 0x01 .none) ∧
    (after (levelled .studio) (.access 3 2 1)).control.level = .operator := by decide +kernel

/-- R195: day FFFFh is followed by 0. -/
theorem test_day_wraps :
    (after { powered with clock := ⟨0, some 65535, some 86400000⟩ } .dayTimerExpiry).clock.day = some 0 := by
  decide +kernel

/-- R52: a trim is clamped to 3072..5120. -/
theorem test_trim_is_clamped :
    (after (levelled .service) (.trimSet 1 3 6000)).meter.trims[3] = 5120 := by decide +kernel

/-- R142: closing an edition puts its id in the closed list for good. -/
theorem test_close_keeps_the_id :
    (after (withEdition .opened) (.editionClose 1 5001)).registry.closedIds = [5001] ∧
    lastSent (after (after (withEdition .opened) (.editionClose 1 5001)) (.editionOpen 2 5001 [] 3 1 7 4)) =
      some (.reply 2 .exists_ 0x30 .none) := by decide +kernel

/-- R161: COST_DROP drops the record it names, and only the oldest. -/
theorem test_cost_drop :
    (after withLog (.costDrop 1 7301)).cost.log = [record 7302] ∧
    lastSent (after withLog (.costDrop 1 7302)) = some (.reply 1 .mismatch 0x3B (.oldestSequence 7301)) := by
  decide +kernel

/-- R92: the blade's return after it has left rest completes the cut. -/
theorem test_blade_home_completes :
    let e := stationAt .cutServer 9000 none (some .waste)
    let s := { withMedia { verified with state := .stoppedAtStation, roll := { roll30m with head := 10800 }, stations := [e] }
      with cutter := { Cutter.initial with state := .cutting, current := some e, chute := some .waste, leftRest := true } }
    (after s .bladeHome).media.roll.lastCut = 9000 ∧ (after s .bladeHome).media.stations = [] ∧
    (after s .bladeHome).media.state = .idle := by decide +kernel

/-- R7, R67: a server cut writes the last-cut position, and the release checks run: a PROOF print that waits for nothing
any more becomes READY. -/
theorem test_cut_runs_release_checks :
    let e := stationAt .cutServer 9000 none (some .waste)
    let s := { withMedia { verified with state := .stoppedAtStation, roll := { roll30m with head := 10800 }, stations := [e] }
      with
        cutter := { Cutter.initial with state := .cutting, current := some e, chute := some .waste, leftRest := true }
        ink := { powered.ink with channels := fullChannels }
        queue := { powered.queue with prints := [proof 1 .waiting] } }
    (after s .bladeHome).queue.prints.map (·.state) = [.ready] := by decide +kernel

/-- R82: a movement timeout faults the transport where it stands. -/
theorem test_movement_timeout :
    let s := withMedia { verified with state := .moving, feed := some ⟨.move, 3000, 1800, false⟩
                                       movement := some ⟨1800, 3000, 0, 2800⟩ }
    (after s .movementTimeout).media.state = .faulted ∧ (after s .movementTimeout).media.feed = none := by
  decide +kernel

/-! ## Witnesses: for each statement with hypotheses, a state and operands that meet them

One theorem for a statement, with one conjunct for each of its clauses. -/

/-- A part in its last millisecond before a boundary but one, with the day timer running. -/
def quiet : State := { powered with clock := ⟨123, some 7, some 86400000⟩ }

/-- The part with one request in its receive list. -/
def withRequest : State :=
  { powered with control := { powered.control with receiveList := [⟨0x06#8, 1#8, []⟩] } }

theorem quiet_timers : ∀ x ∈ timers quiet, x.1 = none ∨ x.1 = some 86400000 := by decide +kernel

theorem witness_StepRunsFront :
    (State.reset.pending = [] ∧ State.reset.startUp = .restoring) ∧
    (withRequest.pending = [] ∧ withRequest.startUp ≠ .restoring ∧
      withRequest.control.receiveList = ⟨0x06#8, 1#8, []⟩ :: [] ∧
      decodeControl ⟨0x06#8, 1#8, []⟩ = .command (.settingsQuery 1)) ∧
    (quiet.pending = [] ∧ quiet.startUp ≠ .restoring ∧ quiet.control.receiveList = [] ∧
      (∀ x ∈ timers quiet, ∀ d, x.1 = some d → quiet.clock.now < d) ∧ quiet.clock.now % 125 ≠ 124) := by
  refine ⟨by decide +kernel, by decide +kernel, by decide +kernel, by decide +kernel, by decide +kernel, ?_, by decide⟩
  intro x hx d hd
  rcases quiet_timers x hx with h | h
  · simp [h] at hd
  · have : d = 86400000 := by simpa [h] using hd.symm
    subst this
    decide

theorem witness_QueueUntouched : printing.pending ≠ [] ∧ ∃ t, exec (.reset 1) printing = .next t :=
  ⟨by decide +kernel, _, rfl⟩

theorem printing_channels : ∀ c : Chan,
    ((printing.channel c).parcels.map (·.volume)).sum = (printing.channel c).level ∧
    (∀ p ∈ (printing.channel c).parcels, 0 < p.volume) ∧ (printing.channel c).level ≤ 40000000 ∧
    (printing.channel c).parcels.length ≤ 24 ∧ (printing.channel c).job = none ∧
    (printing.store.ink[c]).parcels = [] ∧ (printing.store.ink[c]).level = 0 := by decide +kernel

theorem printing_tanks : TankLaw printing := fun c => by
  obtain ⟨h1, h2, h3, h4, h5, h6, h7⟩ := printing_channels c
  refine ⟨⟨⟨h1, h2, h3, h4⟩, ⟨fun j h => ?_, fun j h => ?_⟩⟩, ?_⟩
  · simp [h5] at h
  · simp [h5] at h
  · rw [h6, h7]
    exact ⟨rfl, fun _ h => by simp at h, Nat.zero_le _, Nat.zero_le _⟩

/-- TankLawKept, ResidueLawKept, StationOrderKept, CapacitiesKept and SilenceLawKept: a printing part meets the five
laws, and steps. -/
theorem witness_Laws : Laws printing ∧ printing.engine.silence.isSome = true ∧ ∃ t, step printing = .next t := by
  refine ⟨⟨printing_tanks, ?_, ?_, ?_, ?_⟩, by decide +kernel, _, rfl⟩
  · show ∀ c : Chan, _
    decide +kernel
  · show List.Pairwise _ _
    decide +kernel
  · exact ⟨by decide +kernel, by decide +kernel, by decide +kernel, by decide +kernel, by decide +kernel,
      by decide +kernel, by decide +kernel⟩
  · exact fun _ => by decide +kernel

/-- A part whose prints, roll, edition and engine agree: RESET closes its print (StationOrderKept, CapacitiesKept,
SilenceLawKept, ClosedIdsNeverLeave, ResetEmptiesQueue). -/
theorem witness_WorkLaw :
    WorkLaw sold ∧ (∃ t, step sold = .next t) ∧ ∃ t, exec (.reset 1) sold = .next t := by
  refine ⟨⟨⟨?_, by decide +kernel, fun v h => ?_⟩, ⟨by decide +kernel, by decide +kernel, by decide +kernel,
    fun h e => ?_, by decide +kernel, by decide +kernel, by decide +kernel⟩, ⟨by decide +kernel, fun p hp id h => ?_,
    by decide +kernel, by decide +kernel⟩⟩, ⟨_, rfl⟩, _, rfl⟩
  · show List.Pairwise _ _
    decide +kernel
  · have : sold.media.movement = none := rfl
    simp [this] at h
  · have : sold.media.hold = .engine 1 := rfl
    simp [this] at e
  · have : ∀ q ∈ sold.queue.prints, q.editionId = some 5001 ∧ q.refSet.isSome = true ∧
        5001 ∈ sold.registry.table.map (·.id) := by decide +kernel
    obtain ⟨h1, h2, h3⟩ := this p hp
    rw [h1] at h
    cases h
    exact ⟨h2, h3⟩

/-- A movement that ends at the first trigger of the list, its driver about to arrive. -/
theorem witness_StationOrderKept :
    let s := { powered with
      pending := [.driverArrival]
      media := { verified with
        state := .moving, stations := [stationAt .cutServer 1200 none (some .waste)]
        feed := some ⟨.move, 4000, 1800, false⟩, movement := some ⟨1800, 3000, 0, 2800⟩ } }
    WorkLaw s ∧ ∃ t, step s = .next t := by
  refine ⟨⟨⟨?_, by decide +kernel, fun v h => ?_⟩, ⟨by decide +kernel, by decide +kernel, by decide +kernel,
    fun h e => ?_, by decide +kernel, by decide +kernel, by decide +kernel⟩, ⟨by decide +kernel,
    fun _ hp => absurd hp List.not_mem_nil, by decide +kernel, by decide +kernel⟩⟩, _, rfl⟩
  · show List.Pairwise _ _
    decide +kernel
  · have : v = ⟨1800, 3000, 0, 2800⟩ := (Option.some.inj h).symm
    subst this
    decide +kernel
  · have : verified.hold = .none := rfl
    simp [this] at e

theorem witness_LinesFollowKept : LinesFollow printing ∧ ∃ t, step printing = .next t :=
  ⟨⟨by decide +kernel, by decide +kernel, by decide +kernel⟩, _, rfl⟩

/-- `sold` with a READY print beside its ACTIVE one, the two reserving all the usable supply of every channel. -/
def reserving : State :=
  let claim := fun (p : PrintRecord) (n : Nat) => { p with reservation := Vector.replicate 12 n }
  { sold with queue := { sold.queue with
      prints := [claim (editionPrint .active) 1000, claim (proof 2 .ready) (39000000 - Config.deadVolume - 1000)]
      readyOrder := [2] } }

theorem reserving_order (h : Nat) :
    h ∈ reserving.queue.readyOrder ↔ ∃ p ∈ reserving.queue.prints, p.handle = h ∧ p.state = .ready := by
  have hr : reserving.queue.readyOrder = [2] := rfl
  have hb : ∀ p ∈ reserving.queue.prints, p.state = .ready → p.handle = 2 := by decide +kernel
  constructor
  · intro hm
    rw [hr, List.mem_singleton] at hm
    subst hm
    decide +kernel
  · rintro ⟨p, hp, rfl, hs⟩
    rw [hr, List.mem_singleton]
    exact hb p hp hs

/-- CapacitiesKept, its clause on the reservations: every channel's committed supply at its usable supply. -/
theorem witness_CapacitiesKept :
    WorkLaw reserving ∧ Capacities reserving ∧ SupplyLaw reserving ∧ (∃ t, step reserving = .next t) ∧
    ∀ c : Chan, reserving.committed c = reserving.usable c := by
  have hc : ∀ c : Chan, reserving.committed c = reserving.usable c := by decide +kernel
  refine ⟨⟨⟨?_, by decide +kernel, fun v h => ?_⟩, ⟨by decide +kernel, by decide +kernel, by decide +kernel,
    fun h e => ?_, by decide +kernel, by decide +kernel, by decide +kernel⟩, ⟨by decide +kernel, fun p hp id h => ?_,
    by decide +kernel, by decide +kernel⟩⟩, ⟨by decide +kernel, by decide +kernel, by decide +kernel, by decide +kernel,
    by decide +kernel, by decide +kernel, by decide +kernel⟩,
    ⟨by decide +kernel, reserving_order, fun c => Nat.le_of_eq (hc c)⟩, ⟨_, rfl⟩, hc⟩
  · show List.Pairwise _ _
    decide +kernel
  · have : reserving.media.movement = none := rfl
    simp [this] at h
  · have : reserving.media.hold = .engine 1 := rfl
    simp [this] at e
  · have : ∀ q ∈ reserving.queue.prints, q.editionId = none ∨ q.editionId = some 5001 ∧ q.refSet.isSome = true ∧
        5001 ∈ reserving.registry.table.map (·.id) := by decide +kernel
    rcases this p hp with h1 | ⟨h1, h2, h3⟩
    · rw [h1] at h
      cases h
    · rw [h1] at h
      cases h
      exact ⟨h2, h3⟩

/-- `sold` with its edition's reference set FIXED: the edition has accepted prints. -/
def tied : State := { sold with colour := (withSet .fixed).colour }

theorem tied_own : ∀ p ∈ tied.queue.prints, ∀ e ∈ tied.registry.table, p.editionId = some e.id →
    p.refSet = some e.refSet := by decide +kernel

/-- A SEALED set, a FIXED one, and the ties of an edition whose print is in flight. -/
theorem witness_SealedForever :
    ((((withSet .sealed).colour.sets[(7 : Fin 32)]).mode = .sealed) ∧ ∃ t, step (withSet .sealed) = .next t) ∧
    ((((withSet .fixed).colour.sets[(7 : Fin 32)]).mode ≠ .opened) ∧ ∃ t, step (withSet .fixed) = .next t) ∧
    WorkLaw tied ∧ TiesLaw tied ∧ (∃ t, step tied = .next t) ∧
    ∃ e ∈ tied.registry.table, e.state ≠ .closed ∧ 0 < e.accepted + e.apAccepted :=
  ⟨⟨by decide +kernel, _, rfl⟩, ⟨by decide +kernel, _, rfl⟩, witness_WorkLaw.1,
    ⟨by decide +kernel, tied_own, by decide +kernel⟩, ⟨_, rfl⟩, by decide +kernel⟩

theorem witness_ClosedIdsNeverLeave : (withEdition .closed).registry.table ≠ [] ∧
    ∃ t, step { withEdition .closed with pending := [.editionArchive 1 5001] } = .next t :=
  ⟨by decide +kernel, _, rfl⟩

theorem witness_CostRecordsStay : withLog.cost.log = record 7301 :: [record 7302] ∧
    (∃ t, exec (.costDrop 1 7301) withLog = .next t) ∧ ∃ t, exec (.costRead 1) withLog = .next t :=
  ⟨rfl, ⟨_, rfl⟩, _, rfl⟩

theorem witness_OnlyItsRequestWrites : writesStored (.printDone 5 1) = false ∧
    ∃ t, exec (.printDone 5 1) printing = .next t := ⟨rfl, _, rfl⟩

theorem witness_ControlRoundTrip :
    (∃ f, (Instr.printSubmit 255 { proofDesc with jobTag := 4294967295, editionId := some 0, refSet := some 255 }).wf = true ∧
      encodeControl (.printSubmit 255 { proofDesc with jobTag := 4294967295, editionId := some 0, refSet := some 255 }) =
        some f) ∧
    (∃ f, (Instr.printQuery 0 none).wf = true ∧ encodeControl (.printQuery 0 none) = some f) ∧
    ∃ f, (Instr.mediaSet 1 255 [0xFF#8] 4294967295 (-32768)).wf = true ∧
      encodeControl (.mediaSet 1 255 [0xFF#8] 4294967295 (-32768)) = some f :=
  ⟨⟨_, by decide +kernel, rfl⟩, ⟨_, by decide +kernel, rfl⟩, _, by decide +kernel, rfl⟩

theorem witness_PartnerRoundTrip :
    (∃ f, (Instr.swath 255 ⟨255, 65535, -32768, Vector.replicate 12 ⟨16777215, 0, 1⟩⟩).wf = true ∧
      encodeEngine (.swath 255 ⟨255, 65535, -32768, Vector.replicate 12 ⟨16777215, 0, 1⟩⟩) = some f) ∧
    ∃ f, (Instr.readings 2 sixReadings).wf = true ∧ encodeSpectro (.readings 2 sixReadings) = some f :=
  ⟨⟨_, by decide +kernel, rfl⟩, _, by decide +kernel, rfl⟩

/-- The longest frame, and a receive list with one place left. -/
theorem witness_ReceiverTakesFrame :
    let f : Frame := ⟨0x7F#8, 1#8, List.replicate 1024 0#8⟩
    let s := { powered with control := { powered.control with receiveList := List.replicate 3 ⟨0x06#8, 1#8, []⟩ } }
    f.body.length ≤ 1024 ∧ s.links.control.receiver = .hunt ∧ s.control.receiveList.length < 4 ∧
    ∀ l ∈ [Link.control, .engine, .spectro], (s.link l).receiver = .hunt := by decide +kernel

theorem witness_BelowLevelRefused :
    (requestLevel (.factoryRestore 1) = some (1, 0x08, .service) ∧
      AccessLevel.rank (levelled .studio).control.level < AccessLevel.rank .service) ∧
    (requestLevel (.referenceSeal 1 31) = some (1, 0x29, .studio) ∧
      AccessLevel.rank powered.control.level < AccessLevel.rank .studio) := by decide +kernel

theorem witness_AccessAndPasswords :
    0 = powered.control.studioPassword ∧ 1 ≠ powered.control.studioPassword ∧ 0 = powered.control.servicePassword ∧
    1 ≠ powered.control.servicePassword ∧ 3 ≤ 3 ∧ (levelled .studio).control.level ≠ .operator ∧
    powered.control.level = .operator ∧ (levelled .service).control.level = .service ∧
    (levelled .studio).control.level ≠ .service := by decide +kernel

theorem witness_QueriesChangeNothing :
    (withPrints [proof 1 .waiting]).findPrint 1 = some (proof 1 .waiting) ∧ powered.findPrint 1 = none ∧ 12 ≤ 12 ∧
    32 ≤ 32 ∧ (withEdition .opened).findEdition 5001 = some (edition .opened) ∧ powered.findEdition 5001 = none ∧
    1023 ≤ 1023 ∧ 1023 < 1024 ∧ withLog.cost.log = record 7301 :: [record 7302] ∧ powered.cost.log = [] := by
  refine ⟨rfl, rfl, by decide, by decide, rfl, rfl, by decide, by decide, rfl, rfl⟩

theorem witness_SettingWrites :
    (levelled .studio).control.level ≠ .operator ∧ 25 ≤ 25 ∧ noticeMaskOf 0x0190#32 = some (.ink, true) ∧
    noticeMaskOf 0x009A#32 = some (.calibration, false) ∧ lampOf 0x02010A03#32 = some (3, ⟨.off, true, .fast⟩) ∧
    haltRoutingOf 0xFC#32 = some ⟨false, false, true, true, true, true, true, true, false⟩ ∧
    attnRoutingOf 0x1FF#32 = some .all ∧ 25 < (26#32).toNat ∧ 1 < (2#32).toNat ∧ (0x9B#32).toNat % 256 = 0x9B ∧
    3 < (4#32).toNat % 256 ∧ (1#32).getLsbD 0 = true ∧ (2#32).getLsbD 1 = true ∧ 512 ≤ (512#32).toNat := by
  decide +kernel

theorem witness_MeterTableWrites :
    (levelled .service).control.level = .service ∧ (levelled .service).active = none ∧
    (let s := { levelled .service with queue := printing.queue }
     s.control.level = .service ∧ s.active.isSome = true) ∧ (1 : Nat) < 2 ∧ 12 ≤ 12 ∧ 24 ≤ 24 ∧ (2 : Nat) ≤ 2 := by
  decide +kernel

theorem witness_CostRequests :
    (levelled .studio).control.level ≠ .operator ∧ 100000000 ≤ 100000000 ∧ 32 ≤ 32 ∧ 100000000 < 100000001 ∧
    (List.replicate 16 0x7E#8).length ≤ 16 ∧ (∀ b ∈ List.replicate 16 0x7E#8, 0x20 ≤ b.toNat ∧ b.toNat ≤ 0x7E) ∧
    (-200 : Int) ≤ -200 ∧ (200 : Int) ≤ 200 ∧ 16 < (List.replicate 17 0x7E#8).length ∧ (200 : Int) < 201 ∧
    (∃ b ∈ [0x41#8, 0x7F#8], b.toNat < 0x20 ∨ 0x7E < b.toNat) ∧
    (∃ b ∈ [0x1F#8], b.toNat < 0x20 ∨ 0x7E < b.toNat) ∧ withLog.cost.log = record 7301 :: [record 7302] ∧ 7301 = (record 7301).sequence ∧ 7302 ≠ (record 7301).sequence ∧
    powered.cost.log = [] := by
  refine ⟨by decide +kernel, by decide, by decide, by decide, by decide +kernel, by decide +kernel, by decide,
    by decide, by decide +kernel, by decide, by decide, by decide, rfl, rfl, by decide +kernel, rfl⟩

theorem witness_ReferenceWrites :
    (withSet .opened).control.level ≠ .operator ∧ referenceInRange sixPatches.length sixPatches 50 2550 = true ∧
    ((withSet .opened).colour.sets[(7 : Fin 32)]).mode = .opened ∧
    ((withSet .fixed).colour.sets[(7 : Fin 32)]).mode ≠ .opened ∧
    ((withSet .fixed).colour.sets[(7 : Fin 32)]).patches ≠ [] ∧
    ((withSet .fixed).colour.sets[(7 : Fin 32)]).mode ≠ .sealed ∧
    ((withSet .opened).colour.sets[(8 : Fin 32)]).patches = [] ∧
    ((withSet .sealed).colour.sets[(7 : Fin 32)]).mode = .sealed := by decide +kernel

/-- A description of an EDITION print of the edition 5001. -/
def editionDesc : PrintDescription := { proofDesc with kindCode := 0, editionId := some 5001, spanLength := 750 }

theorem witness_PrintRequests :
    ((withPrints (List.replicate 7 (proof 1 .waiting))).queue.prints.length < 8 ∧ descriptionInRange proofDesc = true ∧
      proofDesc.kindCode = 2) ∧
    (descriptionInRange editionDesc = true ∧ editionDesc.editionId = some 5001 ∧
      (withEdition .opened).findEdition 5001 = some (edition .opened) ∧
      (edition .opened).mediaType = editionDesc.mediaType ∧ editionDesc.kindCode = 0 ∧
      ({ editionDesc with kindCode := 1 } : PrintDescription).kindCode = 1 ∧
      descriptionInRange { editionDesc with kindCode := 1 } = true) ∧
    (edition .opened).mediaType ≠ ({ editionDesc with mediaType := 5 } : PrintDescription).mediaType ∧
    powered.findEdition 5001 = none ∧ 8 ≤ (withPrints (List.replicate 8 (proof 1 .waiting))).queue.prints.length ∧
    descriptionInRange { proofDesc with imageWidth := 99 } = false ∧
    ([PrintState.waiting, .ready, .active, .travel, .scan, .separate].all fun st =>
      (withPrints [proof 1 st]).findPrint 1 == some (proof 1 st)) = true ∧
    powered.findPrint 1 = none := by decide +kernel

theorem witness_InkRequests :
    (levelled .service).control.level = .service ∧ 1 ≤ 1 ∧ 30 ≤ 30 ∧
    ((powered.channel 0).slot ≠ .reading ∧ (powered.channel 0).refill ≠ .pumping ∧
      (powered.channel 0).refill ≠ .suspended) ∧ (refilling.channel 3).refill = .pumping ∧
    ((withChannel 3 { channel3 with refill := .fault, job := some job }).channel 3).refill = .fault ∧
    (powered.channel 0).refill ≠ .fault ∧ 12 ≤ 12 ∧ 0 = 0 ∧ 30 < 31 := by decide +kernel

/-- R26: channel 12, a code of 0 and a code of 31 are refused RANGE. -/
theorem test_colour_out_of_range :
    [(12, 1), (0, 0), (11, 31)].map (fun x => lastSent (after (levelled .service) (.channelColour 1 x.1 x.2))) =
      List.replicate 3 (some (.reply 1 .range 0x18 .none)) := by decide +kernel

/-- The part with its sensors seeing a roll. -/
def withRollSeen (m : MediaTransport) : State :=
  { withMedia m with inputs := { levelsAtReset with rollPresent := true, rollEndMedia := true } }

theorem witness_RollBases :
    let s := withRollSeen { verified with rollState := .unverified }
    s.inputs.rollPresent = true ∧ s.media.state ≠ .faulted ∧ s.queue.prints.any (·.onRoll) = false ∧
    s.positioned = none ∧ s.media.feed = none ∧ s.inputs.rollEndMedia = true ∧ 15 ≤ 15 ∧ 254 ≤ 254 ∧ 1626 ≤ 1626 ∧
    1 ≤ 1 ∧ 100000 ≤ 100000 ∧ s.media.rollState = .unverified ∧ s.media.roll.head ≤ s.media.roll.tail + 1800 ∧
    (let t := withRollSeen { verified with rollState := .unverified, roll := { roll30m with head := 303600 } }
     t.media.rollState = .unverified ∧ t.media.roll.head = t.media.roll.tail + 1800) ∧
    (withRollSeen verified).media.rollState ≠ .unverified ∧ powered.inputs.rollPresent = false ∧
    15 < 16 ∧ 253 < 254 ∧ 1626 < 1627 ∧ 0 < 1 ∧ 100000 < 100001 ∧
    (let t := { s with queue := { s.queue with prints := [proof 1 .travel] } }
     t.inputs.rollPresent = true ∧ t.media.state ≠ .faulted ∧ t.queue.prints.any (·.onRoll) = true) := by
  decide +kernel

/-- R72: a roll moved 990 dmm beyond its tail confirms to 1800 − 990, and L − H stays (chapter 0: the geometry is exact). -/
theorem test_roll_confirm_beyond_the_tail :
    let s := withRollSeen { verified with rollState := .unverified, roll := ⟨4, 1118, 9, 1810, 2800, 1830, 1800⟩ }
    (after s (.rollConfirm 1)).media.roll = ⟨4, 1118, 9, 810, 1800, 1830, 1800⟩ := by decide +kernel

/-- A transport with a fault. -/
def faultedMedia : MediaTransport := { verified with state := .faulted, cause := some .driver }

theorem witness_MoveAndClear :
    let s := withMedia verified
    (s.media.rollState ≠ .none ∧ s.media.state ≠ .faulted ∧ s.media.hold = .none ∧ s.media.feed = none ∧
      s.media.state ≠ .stoppedAtStation ∧ 1 ≤ 301800 ∧ s.media.roll.head + 301800 ≤ s.media.roll.tail + 1800) ∧
    powered.media.rollState = .none ∧
    ((withMedia faultedMedia).media.state = .faulted ∧ (withMedia faultedMedia).workRunning = false) ∧
    (let t := { withMedia faultedMedia with colour := scanningState.colour }
     t.media.state = .faulted ∧ t.workRunning = true) ∧ powered.media.state ≠ .faulted := by decide +kernel

/-- MoveAndClear's refusals: a hold, a feed, a stop without one, and the targets just beyond L + 1800 (R81). -/
theorem witness_MoveAndClear_refusals :
    (printing.media.rollState ≠ .none ∧ printing.media.state ≠ .faulted ∧ printing.media.hold ≠ .none) ∧
    (let s := withMedia { verified with state := .moving, feed := some ⟨.move, 3000, 1800, false⟩ }
     s.media.rollState ≠ .none ∧ s.media.state ≠ .faulted ∧ s.media.hold = .none ∧ s.media.feed ≠ none) ∧
    (let s := withMedia { verified with state := .stoppedAtStation }
     s.media.rollState ≠ .none ∧ s.media.hold = .none ∧ s.media.state = .stoppedAtStation) ∧
    (let s := withMedia verified
     s.media.rollState ≠ .none ∧ s.media.hold = .none ∧ s.media.feed = none ∧ s.media.state ≠ .stoppedAtStation ∧
       s.media.roll.tail + 1800 < s.media.roll.head + 301801 ∧
       [0, 301801].map (fun d => lastSent (after s (.move 1 d))) =
         List.replicate 2 (some (.reply 1 .range 0x22 .none))) := by decide +kernel

theorem witness_ServerCuts :
    let s := withMedia { verified with roll := { roll30m with head := 5000 } }
    s.media.rollState ≠ .none ∧ s.media.stations.length < 16 ∧
    (s.media.roll.head ≤ 3200 + 1800 ∧ s.media.roll.lastCut < 3200 ∧ 3200 < s.media.roll.tail ∧
      s.protectedAt 3200 = false ∧ s.cutListed 3200 = false ∧ s.cutRunsAt 3200 = false ∧
      s.movementHolds (3200 + 1800) = false) ∧
    ({ s with media := { s.media with stations := [stationAt .cutServer 3200 none (some .waste)] } } : State).cutListed
      3200 = true ∧
    ({ s with cutter := { s.cutter with
      state := .cutting, current := some (stationAt .cutServer 3200 none (some .waste)) } } : State).cutRunsAt 3200 = true ∧
    (s.media.roll.lastCut < 301799 ∧ 301799 < s.media.roll.tail) ∧
    (s.media.state ≠ .faulted ∧ s.media.hold = .none ∧ s.media.feed = none ∧ s.media.state ≠ .stoppedAtStation ∧
      s.media.roll.lastCut < s.media.roll.head - 1800 ∧ s.media.roll.head - 1800 < s.media.roll.tail) := by
  decide +kernel

/-- Sixteen server cuts, the first at 5000. -/
def sixteenCuts : List Station := (List.range 16).map fun i => stationAt .cutServer (5000 + i) none (some .waste)

/-- A roll whose H is at 6800, with a print in TRAVEL on 6000 to 7000 and a list of station entries. -/
def cuttable (cuts : List Station) : State :=
  { withMedia { verified with roll := { roll30m with head := 6800 }, stations := cuts } with
    queue := { powered.queue with prints := [{ proof 1 .travel with span := some ⟨6000, 7000⟩ }] } }

/-- A roll that moves from 6800 to 8000. -/
def cuttableMoving : State :=
  { cuttable [] with media := { (cuttable []).media with
      state := .moving, feed := some ⟨.move, 8000, 6800, false⟩, movement := some ⟨6800, 8000, 0, 2800⟩ } }

/-- ServerCuts, each refusal of CUT_AT at its boundary (R98, R100). -/
theorem witness_ServerCuts_at :
    let s := cuttable []
    (s.media.rollState ≠ .none ∧ 4999 + 1800 < s.media.roll.head ∧ 1800 ≤ s.media.roll.lastCut ∧
      s.media.roll.tail ≤ 301800) ∧
    (s.media.roll.head ≤ 6000 + 1800 ∧ s.media.roll.lastCut < 6000 ∧ 6000 < s.media.roll.tail ∧
      s.protectedAt 6000 = true ∧ s.protectedAt 5999 = false ∧ s.protectedAt 7001 = false) ∧
    ((cuttable sixteenCuts).cutListed 5015 = true ∧ (cuttable sixteenCuts).cutListed 5016 = false ∧
      (cuttable sixteenCuts).protectedAt 5016 = false ∧ (cuttable sixteenCuts).cutRunsAt 5016 = false ∧
      (cuttable sixteenCuts).movementHolds (5016 + 1800) = false ∧
      16 ≤ (cuttable sixteenCuts).media.stations.length) ∧
    (cuttableMoving.movementHolds (5000 + 1800) = true ∧ cuttableMoving.protectedAt 5000 = false ∧
      cuttableMoving.cutListed 5000 = false) ∧
    [4999, 301800, 6000, 7000].map (fun n => lastSent (after s (.cutAt 1 n 1))) =
      [some (.reply 1 .range 0x24 .none), some (.reply 1 .range 0x24 .none), some (.reply 1 .isProtected 0x24 .none),
       some (.reply 1 .isProtected 0x24 .none)] := by decide +kernel

/-- ServerCuts, each refusal of CUT_NOW (R101), and those of both that name no chute or find no roll. -/
theorem witness_ServerCuts_now :
    (withMedia faultedMedia).media.state = .faulted ∧ printing.media.hold ≠ .none ∧
    (cuttableMoving.media.hold = .none ∧ cuttableMoving.media.feed ≠ none) ∧
    ((withMedia verified).media.feed = none ∧
      (withMedia verified).media.roll.head - 1800 ≤ (withMedia verified).media.roll.lastCut) ∧
    (let s := { cuttable [] with queue := { powered.queue with
      prints := [{ proof 1 .travel with span := some ⟨4000, 5000⟩ }] } }
     s.protectedAt (s.media.roll.head - 1800) = true) ∧
    (cuttable sixteenCuts).cutListed ((cuttable sixteenCuts).media.roll.head - 1800) = true ∧
    (let s := cuttable (sixteenCuts.map fun e => { e with position := e.position + 1, trigger := e.trigger + 1 })
     s.protectedAt (s.media.roll.head - 1800) = false ∧ s.cutListed (s.media.roll.head - 1800) = false ∧
       16 ≤ s.media.stations.length) ∧
    2 ≤ 2 ∧ powered.media.rollState = .none ∧ 1 < 2 ∧
    lastSent (after (withMedia verified) (.cutNow 1 2)) = some (.reply 1 .range 0x25 .none) ∧
    lastSent (after powered (.cutNow 1 1)) = some (.reply 1 .state 0x25 .none) := by decide +kernel

theorem witness_EditionRequests :
    ((withSet .fixed).control.level ≠ .operator ∧ editionInRange 5001 [0x48#8] 999 50 7 15 = true ∧
      (withSet .fixed).findEdition 5001 = none ∧ 5001 ∉ (withSet .fixed).registry.closedIds ∧
      (withSet .fixed).registry.table.length < 64 ∧ ((withSet .fixed).refSet 7).patches ≠ [] ∧
      mayShareSet (withSet .fixed).registry.table ((withSet .fixed).refSet 7).mode 7 15 = true) ∧
    (withEdition .opened).findEdition 5001 = some (edition .opened) ∧
    (withEdition .hold).findEdition 5001 = some (edition .hold) ∧ (edition .complete).state ≠ .closed ∧
    (withEdition .complete).editionQueued 5001 = false ∧ (withEdition .complete).registry.closedIds.length < 1024 ∧
    (withEdition .closed).findEdition 5001 = some (edition .closed) ∧
    (withEdition .closed).editionQueued 5001 = false ∧ (levelled .studio).findEdition 5001 = none := by decide +kernel

/-- EditionRequests' refusals of EDITION_OPEN, each at its boundary (R131, R132). -/
theorem witness_EditionRequests_open :
    (editionInRange 5002 [0x48#8] 1000 0 7 5 = false ∧ editionInRange 5002 [0x48#8] 1 0 7 5 = true) ∧
    ((withEdition .opened).control.level ≠ .operator ∧ editionInRange 5001 [0x48#8] 1 0 7 5 = true ∧
      (withEdition .opened).findEdition 5001 ≠ none) ∧
    (let s := { withEdition .opened with registry := ⟨[edition .opened], [5002]⟩ }
     s.findEdition 5002 = none ∧ 5002 ∈ s.registry.closedIds) ∧
    (let s := { withEdition .opened with registry := ⟨List.replicate 64 (edition .opened), []⟩ }
     s.findEdition 5002 = none ∧ 5002 ∉ s.registry.closedIds ∧ 64 ≤ s.registry.table.length) ∧
    (((withEdition .opened).refSet 7).patches = [] ∧ (withEdition .opened).registry.table.length < 64) ∧
    (let s := { withSet .fixed with registry := ⟨[{ edition .opened with accepted := 1 }], []⟩ }
     s.findEdition 5002 = none ∧ (s.refSet 7).patches ≠ [] ∧
       mayShareSet s.registry.table (s.refSet 7).mode 7 5 = false ∧
       lastSent (after s (.editionOpen 1 5002 [0x48#8] 1 0 7 5)) = some (.reply 1 .isProtected 0x30 .none)) := by
  decide +kernel

/-- EditionRequests' other refusals: another state, a print queued, 1024 closed ids (R133, R135, R142, R143). -/
theorem witness_EditionRequests_others :
    ((withEdition .hold).findEdition 5001 = some (edition .hold) ∧ (edition .hold).state ≠ .opened) ∧
    (edition .opened).state ≠ .hold ∧ (edition .closed).state = .closed ∧
    (let s := { withEdition .opened with queue := { powered.queue with prints := [editionPrint .waiting] } }
     s.findEdition 5001 = some (edition .opened) ∧ s.editionQueued 5001 = true) ∧
    (let s := { withEdition .closed with queue := { powered.queue with prints := [editionPrint .waiting] } }
     s.findEdition 5001 = some (edition .closed) ∧ s.editionQueued 5001 = true) ∧
    (let s := { withEdition .opened with registry := ⟨[edition .opened], List.replicate 1024 5000⟩ }
     s.findEdition 5001 = some (edition .opened) ∧ s.editionQueued 5001 = false ∧
       1024 ≤ s.registry.closedIds.length) := by decide +kernel

/-- A part that lost its power while it printed: channel 3's checkpoint, the marker of an edition's print, the roll. -/
def lostPower : State :=
  { sold with
    store := { sold.store with
      ink := sold.store.ink.set 3 ⟨channel3.level, channel3.parcels, channel3.lastPrice, 5⟩
      openPrint := some { markerOf (editionPrint .active) with reservation := Vector.replicate 12 4603 }
      roll := some ⟨.verified, roll30m⟩ } }

theorem lostPower_parcels : ∀ c : Chan,
    ((lostPower.store.ink[c]).parcels.map (·.volume)).sum = (lostPower.store.ink[c]).level ∧
    (∀ p ∈ (lostPower.store.ink[c]).parcels, 0 < p.volume) ∧ (lostPower.store.ink[c]).level ≤ 40000000 ∧
    (lostPower.store.ink[c]).parcels.length ≤ 24 := by decide +kernel

/-- With and without a print open at the loss of power, and with a roll, an ENDED one and none. -/
theorem witness_PowerOnRestores :
    (∀ c : Chan, ParcelLaw (lostPower.store.ink[c]).level (lostPower.store.ink[c]).parcels) ∧
    (lostPower.store.openPrint.isSome = true ∧ (markerOf (editionPrint .active)).editionId = some lastButOne.id) ∧
    ({ lostPower with store := { lostPower.store with openPrint := none } } : State).store.openPrint = none ∧
    (lostPower.store.roll = some ⟨.verified, roll30m⟩ ∧ RollState.verified ≠ .ended) ∧
    ({ levelsAtReset with rollPresent := true, rollEndMedia := true } : SensorLevels).rollPresent = true ∧
    State.reset.store.roll = none ∧ levelsAtReset.rollPresent = false :=
  ⟨fun c => ⟨(lostPower_parcels c).1, (lostPower_parcels c).2.1, (lostPower_parcels c).2.2.1, (lostPower_parcels c).2.2.2⟩,
    by decide +kernel, rfl, by decide +kernel, rfl, rfl, rfl⟩

/-- R204: the reconciliation draws the lower of reservation and level; R205: the roll comes back UNVERIFIED. -/
theorem test_power_on_after_a_loss :
    let t := after lostPower (.powerOn { levelsAtReset with rollPresent := true, rollEndMedia := true })
    (t.channel 3).level = 11997897 ∧ (t.channel 4).level = 0 ∧ t.cost.log.map (·.estimated) = [true] ∧
    t.registry.table.map (fun e => (e.inFlight, e.spoiled)) = [(0, 1)] ∧ t.media.rollState = .unverified ∧
    t.media.roll = roll30m := by decide +kernel

/-- R206: the print that was ACTIVE at a RESET is closed with its record, and none is left. -/
theorem witness_ResetEmptiesQueue : WorkLaw sold ∧ (after sold (.reset 1)).queue.prints = [] ∧
    lastSent (after sold (.reset 1)) = some (.reply 1 .ok 0x07 (.reset 0 1 [1])) :=
  ⟨witness_WorkLaw.1, by decide +kernel, by decide +kernel⟩

theorem witness_FactoryAndLatch :
    let s := levelled .service
    (s.control.level = .service ∧ s.queue.prints = [] ∧ s.media.feed = none ∧ s.media.state ≠ .stoppedAtStation) ∧
    (withPrints [proof 1 .waiting]).queue.prints ≠ [] ∧
    ({ powered with engine := { powered.engine with latch := some ⟨1, 2⟩ } } : State).engine.latch = some ⟨1, 2⟩ ∧
    powered.engine.latch = none := by decide +kernel

theorem witness_LinkFaults :
    powered.links.control.gapDeadline = none ∧ powered.links.spectro.gapDeadline = none ∧
    (let s := { powered with clock := ⟨50, none, none⟩, links := { powered.links with
      control := ⟨.tag 0 0x06#8, some 50, 0⟩, spectro := ⟨.tag 0 0xE0#8, some 50, 0⟩ } }
     s.links.control.gapDeadline = some 50 ∧ s.links.spectro.gapDeadline = some 50 ∧ 50 ≤ s.clock.now) ∧
    (let s := { powered with clock := ⟨50, none, none⟩, links := { powered.links with
      engine := ⟨.tag 0 0x40#8, some 50, 65535⟩ } }
     s.links.engine.gapDeadline = some 50 ∧ 50 ≤ s.clock.now) ∧
    (List.replicate 3 (⟨0#8, 0#8, []⟩ : Frame)).length < 4 ∧ 4 ≤ (List.replicate 4 (⟨0#8, 0#8, []⟩ : Frame)).length := by
  decide +kernel

theorem witness_LinkTraffic :
    powered.links.control.receiver = .hunt ∧ 0xA4#8 ≠ 0xA5#8 ∧ powered.control.sendList.length ≤ 16 ∧
    (let s := { powered with control := { powered.control with
      sendList := List.replicate 17 (.reply 0 .ok 0x08 .none) } }
     16 < s.control.sendList.length ∧ s.control.sendList.length - 1 ≤ 16) ∧
    (let s := { powered with control := { powered.control with
      sendList := List.replicate 18 (.reply 0 .ok 0x08 .none) } }
     16 < s.control.sendList.length - 1) := by decide +kernel

theorem witness_EngineReadyFrames :
    printing.engine.lost = false ∧ printing.engine.state = .printing ∧ powered.engine.state ≠ .printing ∧
    powered.engine.silence = none ∧ printing.engine.silence = some 30000 ∧ printing.active = some activePrint ∧
    30000 ≤ ({ printing with clock := ⟨30000, none, none⟩ } : State).clock.now ∧
    ({ powered with engine := { powered.engine with lost := true } } : State).engine.lost = true := by decide +kernel

/-- R172: any frame of the engine ends ENGINE_LOST, with a notice HEARD of its kind. -/
theorem test_engine_heard :
    let s := { printing with engine := { printing.engine with state := .idle, lost := true, silence := none, halt := true } }
    let t := after s (.engineUnknownKind 9 0x50)
    t.engine.lost = false ∧ t.control.sendList.head? = some (.notice 1 false false (.engine (.heard 0x50) .idle)) := by
  decide +kernel

/-- A swath report of print 1 with nothing fired. -/
def emptyReport : SwathReport := ⟨1, 118, 314, Vector.replicate 12 ⟨0, 0, 0⟩⟩

theorem witness_EnginePrintFrames :
    printing.engine.lost = false ∧ printing.engine.state = .printing ∧
    printing.engine.stopped ≠ some activePrint.handle ∧ printing.active = some activePrint ∧
    emptyReport.handle = activePrint.handle ∧ printing.meter.lastSequence ≠ some emptyReport.sequence ∧
    ({ printing with meter := { printing.meter with lastSequence := some 118 } } : State).meter.lastSequence =
      some emptyReport.sequence ∧ activePrint.span = some ⟨1830, 6830⟩ ∧ printing.engine.feedAsk = none ∧
    ({ printing with engine := { printing.engine with feedAsk := some ⟨1, 1, 5, false⟩ } } : State).engine.feedAsk ≠
      none ∧ 4 < 5 ∧ 5 ≤ 5 ∧
    (sold.findPrint 1 = some (editionPrint .active) ∧ (editionPrint .active).state = .active ∧
      (editionPrint .active).refSet.isSome = true ∧ (editionPrint .active).editionId = some 5001 ∧
      sold.findEdition 5001 = some lastButOne) ∧
    (printing.findPrint 1 = some activePrint ∧ activePrint.state = .active ∧ activePrint.refSet = none) := by
  decide +kernel

/-- A printing part whose silence timer stands, with a feed ask outstanding. -/
def feeding : State :=
  { printing with engine := { printing.engine with silence := none, feedAsk := some ⟨1, 1, 5, false⟩ } }

theorem feeding_active (s : State) (h : s = feeding ∨ s = printing) : ∀ p, s.active = some p → p.handle ≠ 2 := by
  intro p hp
  have : s.active = some activePrint := by
    rcases h with rfl | rfl
    · decide +kernel
    · decide +kernel
  rw [this] at hp
  cases hp
  decide +kernel

/-- With the silence timer running and with it stopped. -/
theorem witness_EngineRefusals :
    (let s := { powered with engine := { powered.engine with stopped := some 1 } }
     s.engine.lost = false ∧ s.engine.stopped = some 1 ∧ emptyReport.handle = 1 ∧ 4 < 5) ∧
    (powered.engine.lost = false ∧ powered.engine.stopped ≠ some 1 ∧ powered.engine.state ≠ .printing) ∧
    (feeding.engine.lost = false ∧ feeding.engine.stopped ≠ some 2 ∧ feeding.engine.state = .printing ∧
      ∀ p, feeding.active = some p → p.handle ≠ 2) ∧
    (printing.engine.lost = false ∧ printing.engine.silence = some 30000 ∧ printing.engine.stopped ≠ some 2 ∧
      printing.engine.state = .printing ∧ ∀ p, printing.active = some p → p.handle ≠ 2) :=
  ⟨by decide +kernel, by decide +kernel,
    ⟨by decide +kernel, by decide +kernel, by decide +kernel, feeding_active _ (.inl rfl)⟩,
    by decide +kernel, by decide +kernel, by decide +kernel, by decide +kernel, feeding_active _ (.inr rfl)⟩

theorem witness_Calibration :
    (powered.colour.spectro = .idle ∧ powered.colour.pending = none) ∧ scanningState.colour.spectro ≠ .idle ∧
    (let s := { powered with clock := ⟨6000, none, none⟩, colour := { powered.colour with
      spectro := .calibrating 255 0 6000 true, retryDeadline := some 6000 } }
     s.colour.spectro = .calibrating 255 0 6000 true ∧ 6000 ≤ s.clock.now ∧ 1 ≠ 255 ∧
       s.colour.retryDeadline = some 6000) ∧
    (let s := { powered with colour := { powered.colour with pending := some scanJob } }
     s.colour.spectro = .idle ∧ s.colour.pending ≠ none) := by decide +kernel

/-- Calibration's answers with no calibration in flight: the head IDLE, and SCANNING (R112). -/
theorem witness_Calibration_ignored :
    (∀ t b d r, powered.colour.spectro ≠ .calibrating t b d r) ∧
    ∀ t b d r, scanningState.colour.spectro ≠ .calibrating t b d r :=
  ⟨fun _ _ _ _ h => Spectro.noConfusion h, fun _ _ _ _ h => Spectro.noConfusion h⟩

theorem witness_ScanEnds :
    scanningState.colour.spectro = .scanning 2 0 9000 false scanJob false ∧
    sixReadings.length = scanJob.patches.length ∧ ([] : List Reading).length ≠ scanJob.patches.length ∧
    9000 ≤ ({ scanningState with clock := ⟨9000, none, none⟩ } : State).clock.now ∧ 3 ≠ 2 ∧
    ({ scanningState with colour := { scanningState.colour with
      spectro := .scanning 2 0 9000 true scanJob true } } : State).colour.spectro =
        .scanning 2 0 9000 true scanJob true ∧ sold.findPrint 1 = some (editionPrint .active) ∧
    sold.findEdition 5001 = some lastButOne ∧ (editionPrint .scan).kind = .edition := by decide +kernel

/-- The edition's entry after a verdict on its print in SCAN, from an entry. -/
def verdictOn (e : Edition) (o : PrintOutcome) (v : Verdict) : Option (EditionState × Option HoldCause) :=
  let p := editionPrint .scan
  let s := { sold with queue := { sold.queue with prints := [p] }, registry := ⟨[e], []⟩ }
  let r : ScanResult := { completedResult scanJob 2 false 0 sixReadings with verdict := v }
  ((recordVerdict p o r s).findEdition 5001).map fun d => (d.state, d.holdCause)

/-- ScanEnds, each of its endings: the series full, a second FAIL, a third WARN or FAIL, neither, and a held edition
(R137, R138). -/
theorem witness_ScanEnds_edition :
    verdictOn lastButOne .accepted .pass = some (.complete, none) ∧
    verdictOn { lastButOne with failRun := 1, warnRun := 1 } .rejected .fail = some (.hold, some .failRun) ∧
    verdictOn { lastButOne with warnRun := 2 } .rejected .fail = some (.hold, some .warnRun) ∧
    verdictOn { lastButOne with warnRun := 1 } .rejected .fail = some (.opened, none) ∧
    verdictOn { lastButOne with state := .hold, holdCause := some .request } .rejected .warn =
      some (.hold, some .request) ∧
    verdictOn { lastButOne with state := .hold, holdCause := some .request } .accepted .pass =
      some (.complete, none) := by decide +kernel

/-- The part with a tag transfer under way. -/
def withTransfer (t : TagTransfer) : State :=
  { withChannel 3 channel3 with
    clock := ⟨200, none, none⟩, ink := { (withChannel 3 channel3).ink with tagQueue := [t], tagDeadline := some 200 } }

theorem witness_CartridgeEvents :
    (powered.channel 3).slot = .empty ∧ ((withChannel 3 { channel3 with slot := .reading }).channel 3).slot = .reading ∧
    ((withChannel 3 channel3).channel 3).slot = .usable ∧
    ((withChannel 3 { channel3 with slot := .spent }).channel 3).slot = .spent ∧
    ((withChannel 3 { channel3 with slot := .refused .tag }).channel 3).slot = .refused .tag ∧
    ((withTransfer (.read 3)).ink.tagQueue = .read 3 :: [] ∧ (withTransfer (.read 3)).ink.tagDeadline = some 200 ∧
      200 ≤ (withTransfer (.read 3)).clock.now) ∧
    (withTransfer (.mark 3 7)).ink.tagQueue = .mark 3 7 :: [] ∧
    ((withTransfer (.mark 3 7)).channel 3).cartridge.isSome = true ∧
    (withTransfer (.volume 3 7)).ink.tagQueue = .volume 3 7 :: [] ∧
    ((withTransfer (.mark 3 7)).ink.tagDeadline = some 200 ∧ 200 ≤ (withTransfer (.mark 3 7)).clock.now) := by
  decide +kernel

/-- A tag of channel 3's colour. -/
def tag3 : TagData := ⟨40388, 4, 3, 700000000, 300000000, true, 5⟩

/-- The judgement of a tag on channel 3, on day 185, with the memory table holding 1 nL for serial 50000. -/
def judged (t : TagData) : SlotState × Option Nat :=
  let s := { powered with
    clock := ⟨0, some 185, none⟩, ink := { powered.ink with memory := [⟨50000, 1, 1⟩, ⟨50001, 0, 2⟩] } }
  let u := readOutcome 3 (some t) s
  ((u.channel 3).slot, (u.channel 3).cartridge.map (·.remaining))

/-- CartridgeEvents, each judgement at its boundary: 180 days and 181, a fill of 0 and of 1,000,000,001 nL, another
colour, an empty cartridge, the lower volume of the memory table (R27, R30). -/
theorem witness_CartridgeEvents_judgement :
    judged tag3 = (.usable, some 300000000) ∧ judged { tag3 with openedDay := 4 } = (.refused .expired, some 300000000) ∧
    judged { tag3 with fill := 0, remaining := 0 } = (.refused .tag, none) ∧
    judged { tag3 with fill := 1000000001 } = (.refused .tag, none) ∧
    judged { tag3 with fill := 1000000000 } = (.usable, some 300000000) ∧
    judged { tag3 with colour := 5 } = (.refused .colour, some 300000000) ∧
    judged { tag3 with remaining := 0 } = (.spent, some 0) ∧
    judged { tag3 with serial := 50000 } = (.usable, some 1) ∧ judged { tag3 with serial := 50001 } = (.spent, some 0) := by
  decide +kernel

theorem witness_RefillEvents :
    ((refilling.channel 3).job = some job ∧ (refilling.channel 3).refill = .pumping ∧
      (refilling.channel 3).pumpRun = true ∧ job.target ≤ 50 * (job.pulses + 1)) ∧
    50 * (({ job with pulses := 39998 } : RefillJob).pulses + 1) < job.target ∧
    (job.deadline = some 9000 ∧ 9000 ≤ ({ refilling with clock := ⟨9000, none, none⟩ } : State).clock.now) ∧
    (let s := withChannel 3 { channel3 with refill := .suspended, job := some { job with deadline := none } }
     (s.channel 3).job = some { job with deadline := none } ∧ (s.channel 3).refill ≠ .pumping) ∧
    (powered.channel 3).refill = .idle ∧
    ((withChannel 3 { channel3 with refill := .waiting }).channel 3).refill = .waiting := by decide +kernel

/-- What a reconsideration leaves of a channel: its state and its target. -/
def reconsidered (active : Bool) (ch : Channel) : RefillState × Option Nat :=
  let s := withChannel 3 { ch with refill := .waiting }
  let s := if active then { s with queue := { s.queue with prints := [activePrint] } } else s
  let u := reconsider 3 s
  ((u.channel 3).refill, (u.channel 3).job.map (·.target))

/-- Channel 3 at a level, in one parcel. -/
def channel3At (level : Nat) : Channel :=
  { channel3 with level := level, parcels := [⟨level, 845000, 3, 1⟩] }

/-- RefillEvents, each clause of the reconsideration at its boundary (R36, R37). -/
theorem witness_RefillEvents_reconsider :
    reconsidered false (channel3At 36000001) = (.idle, none) ∧
    reconsidered false (channel3At 36000000) = (.pumping, some 2000000) ∧
    reconsidered false { channel3At 5000000 with slot := .spent } = (.waiting, none) ∧
    reconsidered false { channel3At 24 with parcels := List.replicate 24 ⟨1, 1, 0, 1⟩ } = (.waiting, none) ∧
    reconsidered false { channel3At 23 with parcels := List.replicate 23 ⟨1, 1, 0, 1⟩ } = (.pumping, some 2000000) ∧
    reconsidered true (channel3At 12000000) = (.idle, none) ∧
    reconsidered true (channel3At 11999999) = (.pumping, some 2000000) ∧
    reconsidered false { channel3At 5 with cartridge := some ⟨40388, 4, 3, 700000000, 7, true, 5⟩ } =
      (.pumping, some 7) := by decide +kernel

theorem witness_TakingMovesInk :
    (refilling.channel 3).job = some job ∧
    (refilling.channel 3).cartridge = some ⟨40388, 4, 3, 700000000, 300000000, true, 5⟩ := by decide +kernel

/-- A transport with a movement under way. -/
def movingMedia : MediaTransport :=
  { verified with state := .moving, feed := some ⟨.move, 3000, 1800, false⟩, movement := some ⟨1800, 3000, 0, 2800⟩ }

theorem witness_TransportEvents :
    (let s := { withMedia movingMedia with clock := ⟨2800, none, none⟩ }
     s.media.movement = some ⟨1800, 3000, 0, 2800⟩ ∧ 2800 ≤ s.clock.now) ∧ powered.media.movement = none ∧
    powered.media.state ≠ .faulted ∧ (withMedia faultedMedia).media.state = .faulted ∧
    powered.inputs.rollPresent ≠ true ∧ (withMedia verified).media.rollState = .verified ∧
    (let s := { powered with queue := { powered.queue with flushDeadline := some 0 } }
     s.queue.flushDeadline = some 0 ∧ 0 ≤ s.clock.now) ∧ powered.queue.flushDeadline = none := by decide +kernel

theorem witness_CutterAndTimeEvents :
    ({ powered with cutter := { Cutter.initial with state := .settingChute } } : State).cutter.state = .settingChute ∧
    powered.cutter.state ≠ .settingChute ∧ powered.cutter.state ≠ .cutting ∧
    (let s := { powered with clock := ⟨5000, some 65535, some 5000⟩, cutter := { Cutter.initial with
      state := .cutting, leftRest := true, settleDeadline := some 2000, bladeDeadline := some 5000 } }
     s.cutter.state = .cutting ∧ s.cutter.leftRest = true ∧ s.cutter.settleDeadline = some 2000 ∧
       2000 ≤ s.clock.now ∧ s.cutter.bladeDeadline = some 5000 ∧ 5000 ≤ s.clock.now ∧
       s.clock.dayDeadline = some 5000 ∧ s.clock.day = some 65535) := by decide +kernel

theorem witness_DrawOldestFirst :
    (∀ p ∈ channel3.parcels, 0 < p.volume) ∧ (channel3.parcels.map (·.volume)).sum < 12002501 ∧
    (channel3.parcels = [⟨2500, 812000, 3, 1⟩] ++ ⟨2000000, 845000, 3, 2⟩ :: List.replicate 5 ⟨2000000, 845000, 3, 2⟩ ∧
      0 < 2103 ∧ 2103 < 2000000 ∧ 4603 = ([⟨2500, 812000, 3, 1⟩].map Parcel.volume).sum + 2103) ∧
    (channel3.parcels = channel3.parcels ++ [] ∧ 12002500 = (channel3.parcels.map (·.volume)).sum) := by
  decide +kernel

/-- Two READY prints and an ACTIVE one that claim 1000 nL each of channel 3. -/
def claiming : State :=
  let p := fun (h : Nat) (st : PrintState) => { proof h st with reservation := Vector.replicate 12 1000 }
  let s := withPrints [p 1 .active, p 2 .ready, p 3 .ready]
  { s with queue := { s.queue with readyOrder := [3, 2] } }

theorem claiming_order (h : Nat) :
    h ∈ claiming.queue.readyOrder ↔ ∃ p ∈ claiming.queue.prints, p.handle = h ∧ p.state = .ready := by
  have hr : claiming.queue.readyOrder = [3, 2] := rfl
  have hb : ∀ p ∈ claiming.queue.prints, p.state = .ready → p.handle = 3 ∨ p.handle = 2 := by decide +kernel
  constructor
  · intro hm
    rw [hr] at hm
    simp only [List.mem_cons, List.not_mem_nil, or_false] at hm
    rcases hm with rfl | rfl
    · decide +kernel
    · decide +kernel
  · rintro ⟨p, hp, rfl, hs⟩
    rw [hr]
    simpa using hb p hp hs

theorem witness_MeteringLosesNothing :
    (printing.findPrint 1 = some activePrint ∧ (1 : Chan) ≠ 0) ∧
    (claiming.queue.prints.length ≤ 8 ∧ (claiming.queue.prints.map (·.handle)).Nodup ∧
      (claiming.queue.prints.filter (·.state == .active)).length ≤ 1 ∧ claiming.queue.readyOrder.Nodup ∧
      (∀ h, h ∈ claiming.queue.readyOrder ↔ ∃ p ∈ claiming.queue.prints, p.handle = h ∧ p.state = .ready)) ∧
    (printing.committed 3 ≤ printing.usable 3) :=
  ⟨by decide +kernel, ⟨by decide +kernel, by decide +kernel, by decide +kernel, by decide +kernel, claiming_order⟩,
    by decide +kernel⟩

/-- R64: with nothing to draw on, the repair takes back the last READY print in ready order first, then the ACTIVE
print's claim. -/
theorem test_repair_takes_back_claims :
    let t := repair 3 claiming
    t.queue.readyOrder = [] ∧ t.committed 3 = 0 ∧
    t.queue.prints.map (·.state) = [.active, .waiting, .waiting] := by decide +kernel

theorem witness_RowRule :
    ({ powered.meter with manualOn := true } : InkMeter).manualOn = true ∧ powered.meter.manualOn = false ∧
    ({ powered.meter with lastRow := some 23 } : InkMeter).lastRow = some 23 ∧ powered.meter.lastRow = none ∧
    (99 : Int) < 100 ∧ (560 : Int) ≤ 560 ∧ (100 : Int) ≤ 559 ∧ (559 : Int) < 560 := by decide +kernel

theorem witness_JudgingRule :
    (∃ r : Reading, 0 ≤ r.valL ∧ r.valL ≤ 10000 ∧ -12800 ≤ r.valA ∧ r.valA ≤ 12700 ∧ -12800 ≤ r.valB ∧
      r.valB ≤ 12700) ∧ patchInRange (patch 10000 (-12800) 12700) = true ∧ ¬((10001 : Int) ≤ 10000) :=
  ⟨⟨⟨10000, -12800, 12700⟩, by decide⟩, by decide, by decide⟩

theorem witness_LargestDifferenceRule :
    largestDifference (judgeReadings 130 280 sixPatches sixReadings) = some (162, 2) := by decide +kernel

/-- A full memory table whose stamps stand on both sides of the counter's wrap. -/
def fullTable : List MemoryEntry := (List.range 32).map fun i => ⟨i, 5, (4294967280 + i) % 4294967296⟩

theorem witness_MemoryTableRule :
    (fullTable.map (·.serial)).Nodup ∧ fullTable.length = 32 ∧ (∀ x ∈ fullTable, x.serial ≠ 99) ∧
    (∃ x ∈ fullTable, x.serial = 31) ∧ (fullTable.take 31).length < 32 := by decide +kernel

theorem witness_FreshHandle : [255, 1, 2, 3, 4, 5, 6, 7].length ≤ 8 ∧ 254 ≤ 255 := by decide

theorem witness_ReleaseCheck :
    let s := { withMedia verified with
      queue := { powered.queue with prints := [proof 1 .waiting] }, ink := { powered.ink with channels := fullChannels } }
    s.heldReasons (proof 1 .waiting) = [] ∧ s.findPrint 1 = some (proof 1 .waiting) ∧
    (proof 1 .waiting).state = .waiting ∧ powered.heldReasons (proof 1 .waiting) ≠ [] := by decide +kernel

/-- A part about to start a READY print of 5000 dmm with a strip, on a roll of an L, with server cuts listed. -/
def starting (tail : Nat) (cuts : List Station) : State :=
  { withMedia { verified with roll := { roll30m with tail := tail, alloc := 9000 }, stations := cuts } with
    queue := { powered.queue with
      prints := [{ proof 1 .ready with refSet := some 7 }, proof 2 .ready], readyOrder := [1, 2] }
    ink := { powered.ink with channels := fullChannels }
    engine := { powered.engine with state := .asking, readyTag := some 9, halt := false } }

/-- A server cut. -/
def serverCut (position : Nat) : Station := stationAt .cutServer position none (some .waste)

/-- ReleaseCheck's start, its three cases: a roll one dmm short and one that just fits, a list with no room, and the
entries that a start lists in place of those it covers or replaces (R12, R13). -/
theorem witness_ReleaseCheck_start :
    ((starting 14029 []).startPossible = true ∧ (starting 14029 []).media.roll.tail < 9000 + 5000 + 30) ∧
    (startStep (starting 14029 [])).isSome = true ∧ (starting 14030 []).media.roll.tail = 9000 + 5000 + 30 ∧
    (starting 20000 []).readyPrints.map (·.handle) = [1, 2] ∧
    startHasRoom (starting 20000 ((List.range 14).map fun i => serverCut (2000 + i)))
      { proof 1 .ready with refSet := some 7 } ⟨9000, 14000⟩ = false ∧
    ((startStep (starting 20000 ([8969, 9000, 14000, 14001, 14030].map serverCut))).map fun t =>
      t.media.stations.map fun e => (e.kind, e.trigger)) =
      some [(.cutServer, 10769), (.cutLead, 10770), (.scan, 14825), (.cutServer, 15801), (.cutTrail, 15830)] := by
  decide +kernel

/-- ReleaseCheck's roll re-check: of three READY prints the second is too wide, and the third then fits (R71). -/
theorem witness_ReleaseCheck_recheck :
    let ps := [proof 1 .ready, { proof 2 .ready with imageWidth := 1109 }, proof 3 .ready]
    (ps.map (·.handle)).Nodup ∧
    recheckFailures { verified with roll := { roll30m with tail := 1860 + 2 * 5060 } } 1860 ps = [2] ∧
    recheckFailures { verified with roll := { roll30m with tail := 1860 + 2 * 5060 - 1 } } 1860 ps = [2, 3] := by
  decide +kernel

/-- The three prints READY on a roll that holds two of them. -/
def rechecking : State :=
  { withMedia { verified with roll := { roll30m with tail := 1860 + 2 * 5060 } } with
    queue := { powered.queue with
      prints := [proof 1 .ready, { proof 2 .ready with imageWidth := 1109, reservation := Vector.replicate 12 7 },
                 proof 3 .ready, proof 4 .waiting]
      readyOrder := [3, 2, 1] } }

/-- ReleaseCheck's returns (R10, R71): a READY print, and one that is not; the re-check returns the second print alone. -/
theorem witness_ReleaseCheck_returns :
    (∃ p, rechecking.findPrint 2 = some p ∧ p.state = .ready) ∧
    (∃ p, rechecking.findPrint 4 = some p ∧ p.state ≠ .ready) ∧
    (let t := rollRecheck rechecking
     t.queue.readyOrder = [3, 1] ∧ (t.findPrint 2).map (·.state) = some .waiting ∧
       (t.findPrint 2).map (·.reservation) = some (Vector.replicate 12 0) ∧
       ((t.findPrint 2).map fun p => p.heldFor.contains .media) = some true) :=
  ⟨⟨_, rfl, by decide +kernel⟩, ⟨_, rfl, by decide +kernel⟩, by decide +kernel⟩

theorem witness_CostRule :
    activePrint.snapshot = some ⟨4, 1118, 5000, 18500000⟩ ∧ activePrint.numerators[(0 : Chan)] = 0 ∧ 1626 ≤ 1626 ∧
    300000 ≤ 300000 ∧ 1000000000 ≤ 1000000000 := by decide +kernel

theorem witness_SequenceRule : 2 ^ 32 - 2 < 2 ^ 32 - 1 ∧ printing.findPrint 1 = some activePrint := by decide +kernel

theorem witness_NoticeRule :
    ((powered.mapNotice .ink fun n => { n with mask := true }).notice .ink).mask = true ∧
    (powered.notice .frameFault).mask = false ∧ powered.control.sendList.length < 31 ∧
    31 ≤ (List.replicate 31 (ControlFrame.reply 0 .ok 0x08 .none)).length := by decide +kernel

theorem witness_HaltRule :
    printing.startUp = .running ∧ printing.engine.halt = printing.haltLevel ∧
    (let s := { powered with engine := { powered.engine with halt := false } }
     s.engine.halt = false ∧ s.haltLevel = true) ∧
    (let s := { printing with engine := { printing.engine with halt := true } }
     s.engine.halt = true ∧ s.haltLevel = false ∧ s.engine.state = .printing ∧ s.engine.feedAsk = none) := by
  decide +kernel

end Sys2Proof.Tests
end

section
/-! PROOFS. What every step keeps: the laws of Laws/ taken from the operations to each command, to the frames that the
links hand on, and to the step itself. -/

namespace Sys2Proof.Machine

open Sys2Proof

variable {r s t : State}

/-! ## What every command keeps -/

/-- What every command keeps, one that writes a stored setting or table included: the waiting commands, the five laws, the
closed ids there are, each set that is not OPEN as R108 and R109 say, and the laws of the work, of the ties and of the
reservations. -/
structure Lawful (s t : State) : Prop where
  pending : t.pending = s.pending
  laws : LawsKept s t
  closed : s.registry.closedIds <+: t.registry.closedIds
  sets : ∀ i : Fin 32, (s.colour.sets[i]).mode = .opened ∨ SetKept s.colour.sets[i] t.colour.sets[i]
  work : WorkLaw s → WorkLaw t
  ties : WorkLaw s → ∀ x, TiesBut x s → TiesBut x t
  supply : WorkLaw s → ∀ x, SupplyBut x s → SupplyBut x t

theorem Sound.lawful (h : Sound s t) : Lawful s t :=
  ⟨h.pending, h.laws, h.closed, fun i => .inr (h.sets i), h.work, h.ties, h.supply⟩

theorem Kept.lawful (h : Kept s t) : Lawful s t := h.toSound.lawful

theorem Lawful.refl (s : State) : Lawful s s := (Kept.refl s).lawful

/-- A lawful change after one that opens no set to a write. -/
theorem Lawful.trans (h : Lawful r s) (hs : ∀ i : Fin 32, SetKept r.colour.sets[i] s.colour.sets[i] ∧
    ((s.colour.sets[i]).mode = .opened → (r.colour.sets[i]).mode = .opened)) (g : Lawful s t) : Lawful r t :=
  ⟨g.pending.trans h.pending, h.laws.trans g.laws, h.closed.trans g.closed,
   fun i => (g.sets i).imp (hs i).2 (hs i).1.trans, g.work ∘ h.work,
   fun w x l => g.ties (h.work w) x (h.ties w x l), fun w x l => g.supply (h.work w) x (h.supply w x l)⟩

/-- What an operation does after a lawful change. -/
theorem Lawful.kept (h : Lawful r s) (g : Kept s t) : Lawful r t :=
  ⟨g.pending.trans h.pending, h.laws.trans g.laws, h.closed.trans g.closed,
   fun i => (h.sets i).imp_right (·.trans (g.sets i)), g.work ∘ h.work,
   fun w x l => g.ties (h.work w) x (h.ties w x l), fun w x l => g.supply (h.work w) x (h.supply w x l)⟩

/-- A change of what none of the laws of the prints, the roll, the editions, the sets and the reservations speaks of. -/
theorem Lawful.ofAside (hl : LawsKept s t) (hp : t.pending = s.pending := by rfl)
    (hq : t.queue = s.queue := by rfl) (he : t.engine.state = s.engine.state := by rfl)
    (hm : t.store.openPrint = s.store.openPrint := by rfl) (hr : t.media = s.media := by rfl)
    (hk : t.cost.log = s.cost.log := by rfl) (ht : t.registry = s.registry := by rfl)
    (hc : t.colour.sets = s.colour.sets := by rfl)
    (hu : ∀ c, t.usable c = s.usable c := by exact fun _ => rfl) : Lawful s t where
  pending := hp
  laws := hl
  closed := by rw [ht]
  sets i := .inr (by rw [hc]; exact .refl _)
  work w := by rw [WorkLaw, hq, he, hm, hr, hk, ht]; exact w
  ties _ := ties_same (by rw [hq]) (by rw [ht]) hc
  supply _ := supply_same (by rw [hq]) (by rw [hq]) hu

/-! ## Requests -/

theorem reply_lawful (h : Lawful r s) (tag : Nat) (code : ReplyCode) (kind : Nat) (fields : ReplyFields) :
    Lawful r (reply tag code kind fields s) := h.kept (reply_kept (.refl s) _ _ _ _)

theorem finish_lawful (h : Lawful r s) : Lawful r (finish s) := h.kept (finish_kept (.refl s))

theorem refreshPanel_lawful (h : Lawful r s) : Lawful r (refreshPanel s) := h.kept (refreshPanel_kept (.refl s))

theorem releaseChecks_lawful (h : Lawful r s) : Lawful r (releaseChecks s) := h.kept (releaseChecks_kept (.refl s))

/-- A reply that leaves all else as it is. -/
theorem answer_lawful (tag : Nat) (code : ReplyCode) (kind : Nat) (fields : ReplyFields) (s : State) :
    Lawful s (reply tag code kind fields s) := reply_lawful (.refl s) _ _ _ _

theorem request_lawful (tag kind : Nat) (level : AccessLevel) {body : State → State} (hb : Lawful s (body s)) :
    Lawful s (request tag kind level body s) := by
  unfold request
  split
  · exact hb
  · exact answer_lawful ..

/-- Any change of the control link that leaves its two lists. -/
theorem mapControl_lawful (s : State) (f : ControlLink → ControlLink)
    (hs : (f s.control).sendList = s.control.sendList := by rfl)
    (hr : (f s.control).receiveList = s.control.receiveList := by rfl) : Lawful s (s.mapControl f) :=
  .ofAside ⟨id, id, id, fun l => { l with sendList := hs ▸ l.sendList, receiveList := hr ▸ l.receiveList }, id⟩

/-! ## Requests of the control link -/

theorem accessRequest_lawful (tag level password : Nat) (s : State) : Lawful s (accessRequest tag level password s) := by
  unfold accessRequest
  dsimp only
  split
  · exact answer_lawful ..
  · exact reply_lawful (mapControl_lawful s _) _ _ _ _
  all_goals
    split <;> exact reply_lawful (mapControl_lawful s _) _ _ _ _

theorem passwordRequest_lawful (tag level password : Nat) (s : State) :
    Lawful s (passwordRequest tag level password s) := by
  unfold passwordRequest
  split
  case h_3 => exact answer_lawful ..
  all_goals
    split
    · exact reply_lawful (mapControl_lawful s _) _ _ _ _
    · exact answer_lawful ..

theorem setClock_lawful (s : State) (k : Clock) : Lawful s { s with clock := k } :=
  .ofAside ⟨id, id, id, fun l => { l with }, id⟩

theorem settingRequest_lawful {α : Type} (tag : Nat) (value : Option α) (write : α → State → State)
    (now : α → SettingNow) (hw : ∀ v, Lawful s (write v s)) : Lawful s (settingRequest tag value write now s) := by
  refine request_lawful _ _ _ ?_
  split
  · exact answer_lawful ..
  · exact reply_lawful (hw _) _ _ _ _

theorem writeMask_lawful (kind : NoticeKind) (mask : Bool) (s : State) : Lawful s (writeMask kind mask s) := by
  have hw : Lawful s (s.mapNotice kind fun n => { n with mask := mask }) := mapControl_lawful s _
  unfold writeMask
  dsimp only
  split
  · exact hw
  · exact hw.kept (flushKind_kept (.refl _) _ _)

theorem setHaltRouting_lawful (routing : ConditionSet) (s : State) :
    Lawful s (s.mapEngine fun e => { e with haltRouting := routing }) := .ofAside ⟨id, id, id, fun l => { l with }, id⟩

theorem dayTimer_lawful (s : State) : Lawful s (dayTimer s) := by
  unfold dayTimer
  split
  · exact .refl s
  · exact setClock_lawful s _

/-! ## Requests of the ink supply, the meter and the cost unit -/

theorem setColourCode_still (c : Chan) (code : Nat) (s : State) :
    Still s (s.mapChannel c fun ch => { ch with colourCode := code }) := mapChannel_still s c _

theorem setColourCode_laws (c : Chan) (code : Nat) (s : State) :
    LawsKept s (s.mapChannel c fun ch => { ch with colourCode := code }) := by
  refine ⟨fun l d => ⟨?_, (l d).2⟩, id, id, fun l => { l with }, id⟩
  rw [mapChannel_channel]
  split
  · rename_i hd
    subst hd
    exact ⟨(l d).1.parcels, (l d).1.pump.fits, (l d).1.pump.still⟩
  · exact (l d).1

theorem recolour_lawful (c : Chan) (code : Nat) (s : State) : Lawful s (recolour c code s) := by
  have hc : Lawful s (s.mapChannel c fun ch => { ch with colourCode := code }) :=
    .ofAside (setColourCode_laws c code s) (hu := (setColourCode_still c code s).usable)
  unfold recolour
  dsimp only
  split
  · exact hc
  · split
    · exact hc
    · exact hc.kept (applyJudgement_kept (.refl _) _ _ _ _)

theorem colourRequest_lawful (tag channel code : Nat) (s : State) : Lawful s (colourRequest tag channel code s) := by
  unfold colourRequest
  split
  · exact answer_lawful ..
  · dsimp only
    split
    · exact answer_lawful ..
    · split
      · exact answer_lawful ..
      · exact reply_lawful (finish_lawful (recolour_lawful ..)) _ _ _ _

/-- A change of the meter that leaves the residues. -/
theorem setMeter_lawful (s : State) (m : InkMeter) (hr : m.residues = s.meter.residues := by rfl) :
    Lawful s { s with meter := m } :=
  .ofAside ⟨id, fun l c => ⟨by simpa only [hr] using (l c).1, (l c).2⟩, id, fun l => { l with }, id⟩

theorem trimRequest_lawful (tag channel trim : Nat) (s : State) : Lawful s (trimRequest tag channel trim s) := by
  unfold trimRequest
  split
  · exact answer_lawful ..
  · split
    · exact answer_lawful ..
    · exact reply_lawful (setMeter_lawful s _) _ _ _ _

theorem dropRowRequest_lawful (tag row small medium large : Nat) (s : State) :
    Lawful s (dropRowRequest tag row small medium large s) := by
  unfold dropRowRequest
  split
  · exact answer_lawful ..
  · split
    · exact answer_lawful ..
    · exact reply_lawful (setMeter_lawful s _) _ _ _ _

theorem manualRequest_lawful (tag mode row : Nat) (s : State) : Lawful s (manualRequest tag mode row s) := by
  unfold manualRequest
  split
  · split
    · exact answer_lawful ..
    · exact reply_lawful (setMeter_lawful s _) _ _ _ _
  · exact answer_lawful ..

/-- A change of the cost unit that leaves its records. -/
theorem setCost_lawful (s : State) (k : CostUnit) (hk : k.log = s.cost.log := by rfl) : Lawful s { s with cost := k } :=
  .ofAside ⟨id, id, id, fun l => { l with }, id⟩ (hk := hk)

theorem tariffRequest_lawful (tag lot price : Nat) (s : State) : Lawful s (tariffRequest tag lot price s) := by
  unfold tariffRequest
  split
  · exact answer_lawful ..
  · split
    · exact answer_lawful ..
    · exact reply_lawful (setCost_lawful s _) _ _ _ _

theorem mediaSetRequest_lawful (tag mediaType : Nat) (name : List Byte) (price : Nat) (adjustment : Int) (s : State) :
    Lawful s (mediaSetRequest tag mediaType name price adjustment s) := by
  unfold mediaSetRequest
  split
  · exact answer_lawful ..
  · split
    · exact reply_lawful (setCost_lawful s _) _ _ _ _
    · exact answer_lawful ..

theorem dropRecord_lawful (s : State) : Lawful s (dropRecord s) := by
  have hk : Kept { s with cost := { s.cost with log := s.cost.log.drop 1 } } (dropRecord s) :=
    releaseChecks_kept (earlyFullCheck_kept (.refl _))
  exact ⟨hk.pending, dropRecord_laws s, hk.closed, fun i => .inr (hk.sets i), dropRecord_work,
    fun w _ l => dropRecord_ties w l, fun w _ l => dropRecord_supply w l⟩

theorem costDropRequest_lawful (tag sequence : Nat) (s : State) : Lawful s (costDropRequest tag sequence s) := by
  unfold costDropRequest
  split
  · exact answer_lawful ..
  · split
    · exact reply_lawful (finish_lawful (dropRecord_lawful s)) _ _ _ _
    · exact answer_lawful ..

/-! ## Reference sets -/

/-- An OPEN set written anew: no edition holds it, and the sets that are not OPEN stay (R107, R109). -/
theorem writeSet_lawful (i : Fin 32) (g : RefSet) (ho : (s.colour.sets[i]).mode = .opened) :
    Lawful s (writeSet i g s) where
  pending := rfl
  laws := writeSet_laws i g
  closed := List.prefix_refl _
  sets d := by
    by_cases hd : i = d
    · exact .inl (hd ▸ ho)
    · have hv : i.val ≠ d.val := fun e => hd (Fin.ext e)
      refine .inr ?_
      simpa [writeSet, Vector.getElem_set, hv] using SetKept.refl _
  work w := w
  ties _ _ l := writeSet_ties l i g ho
  supply _ := supply_same

theorem referenceLoadRequest_lawful (tag index count : Nat) (patches : List Patch) (warn fail : Nat) (s : State) :
    Lawful s (referenceLoadRequest tag index count patches warn fail s) := by
  unfold referenceLoadRequest
  split
  · exact answer_lawful ..
  · split
    · exact answer_lawful ..
    · split
      · exact answer_lawful ..
      · rename_i ho
        exact reply_lawful (writeSet_lawful _ _ (not_not.mp ho)) _ _ _ _

/-! ## The resets and power-on -/

/-- What RESET completes with leaves the waiting commands, the closed ids and the sets (R207). -/
theorem resetComplete_held (s : State) : (resetComplete s).pending = s.pending ∧
    s.registry.closedIds <+: (resetComplete s).registry.closedIds ∧
    ∀ i : Fin 32, SetKept s.colour.sets[i] (resetComplete s).colour.sets[i] := by
  have h := resetSteps_loose s
  unfold resetComplete
  dsimp only
  generalize endIdleStop (resetTimers (resetRefills (resetRoll (resetList s)))) = t at h ⊢
  exact ⟨h.pending, h.closed, h.sets⟩

/-- The RESET request's passes and what completes it (R206, R207). -/
theorem reset_lawful (s : State) : Lawful s (resetComplete
    (resetClose ((resetSpoil ((s.queue.prints.map (·.handle)).foldl resetRemove s)).mapColour discardScan))) := by
  have hk := resetPasses_kept (.refl s)
  have hi := fun w => resetPasses_stage (s := s) w
  generalize resetClose _ = u at hk hi ⊢
  obtain ⟨hp, hc, hs⟩ := resetComplete_held u
  exact ⟨hp.trans hk.pending, hk.laws.trans (resetComplete_laws u), hk.closed.trans hc,
    fun i => .inr ((hk.sets i).trans (hs i)), fun w => resetComplete_work (hk.work w),
    fun w x l => resetComplete_ties (hk.work w) (hk.ties w x l),
    fun w x l => resetComplete_supply (hk.work w) (hi w) (hk.supply w x l)⟩

theorem resetRequest_lawful (tag : Nat) (s : State) : Lawful s (resetRequest tag s) :=
  reply_lawful (finish_lawful ((reset_lawful s).kept (haltUpdate_kept (.refl _)))) _ _ _ _

theorem factoryTables_lawful (hq : s.queue.prints = []) : Lawful s (factoryTables s) where
  pending := rfl
  laws := factoryTables_laws s
  closed := List.prefix_refl _
  sets _ := .inr (.refl _)
  work w := factoryTables_work w hq
  ties _ x _ := factoryTables_ties x s
  supply _ _ l := factoryTables_supply l

theorem factoryRequest_lawful (tag : Nat) (s : State) : Lawful s (factoryRequest tag s) := by
  unfold factoryRequest
  split
  · exact answer_lawful ..
  · rename_i hb
    have hq : s.queue.prints = [] := by
      by_contra h
      exact hb (.inl h)
    have hk : Kept (factoryTables s) (releaseSets (factoryTables s)) := releaseSets_kept (.refl _)
    exact reply_lawful (finish_lawful (((factoryTables_lawful hq).kept hk).kept
      (releaseChecks_kept (haltUpdate_kept (flushUnmasked_kept (.refl _)))))) _ _ _ _

theorem reconciled_media (levels : SensorLevels) (s : State) :
    (reconcileMarker (powerVolatile levels s)).media = .initial := by
  unfold reconcileMarker
  split
  · rfl
  · dsimp only
    split <;> rfl

/-- From the empty queue that power-on finds: what examines the slots is kept, the supplies whatever they are. -/
theorem powerOn_loose (levels : SensorLevels) (s : State) :
    Loose (reconcileMarker (powerVolatile levels s)) (powerOn levels s) := by
  have hm := reconciled_media levels s
  have hr : Kept (reconcileMarker (powerVolatile levels s)) (workOutFlags (restoreRoll (reconcileMarker
      (powerVolatile levels s)))) :=
    workOutFlags_kept (restoreRoll_kept (.refl _) (by rw [hm]; rfl) (by rw [hm]; rfl))
  exact hr.loose.trans ((foldl_loose _ examineSlot_loose _ _).trans
    (autoCalibrate_kept (refreshPanel_kept (awaitReads_kept
      (foldl_kept _ (fun c hk => workOutIndication_kept hk c) _ (.refl _))))).loose)

theorem powerOn_lawful (levels : SensorLevels) (s : State) : Lawful s (powerOn levels s) := by
  have hv : Held (powerVolatile levels s) (reconcileMarker (powerVolatile levels s)) := reconcileMarker_held (.refl _)
  have hk := powerOn_loose levels s
  exact ⟨hk.pending.trans hv.pending, ((powerVolatile_laws levels s).trans hv.laws).trans hk.laws,
    hv.closed.trans hk.closed, fun i => .inr ((hv.sets i).trans (hk.sets i)),
    fun w => hk.work (powerRestored_work levels w),
    fun w x l => hk.ties (powerRestored_work levels w) x (powerRestored_ties levels l),
    fun w x _ => hk.imaged (powerRestored_work levels w) (powerRestored_supply levels x s).2
      (powerRestored_supply levels x s).1⟩

/-! ## The frames that the receivers hand on -/

theorem takeEngine_kept (h : Kept r s) (f : Frame) : Kept r (takeEngine f s) := by
  unfold takeEngine
  split
  · exact engineMalformed_kept h _ _
  · split
    · exact readyFrame_kept h _
    · exact swathFrame_kept h _ _
    · exact feedAskFrame_kept h _ _ _
    · exact printDone_kept (hearAndRefresh_kept h _) _ _
    · exact printFailFrame_kept h _ _ _
    · exact refuseFrame_kept (hearAndRefresh_kept h _) _ _
    · exact h

theorem calibrated_kept (h : Kept r s) (tag : Nat) : Kept r (calibrationAnswer tag completeCalibration s) :=
  calibrationAnswer_kept h tag _ fun _ hk => completeCalibration_kept hk _

theorem calibrationFault_kept (h : Kept r s) (tag cause : Nat) :
    Kept r (calibrationAnswer tag (failCalibration (.failedFault cause)) s) :=
  calibrationAnswer_kept h tag _ fun _ hk => failCalibration_kept hk _ _

theorem takeSpectro_kept (h : Kept r s) (f : Frame) : Kept r (takeSpectro f s) := by
  unfold takeSpectro
  split
  · exact calibrated_kept h _
  · exact calibrationFault_kept h _ _
  · exact readingsFrame_kept h _ _
  · exact scanFaultFrame_kept h _ _
  · exact h

theorem endFrame_kept (h : Kept r s) (l : Link) (f : Frame) (check : Nat) : Kept r (endFrame l f check s) := by
  have hk := mapLink_kept h l hunting
  unfold endFrame
  split
  · cases l with
    | control => exact receiveFrame_kept hk f
    | engine => exact takeEngine_kept hk f
    | spectro => exact takeSpectro_kept hk f
  · exact discardFrame_kept h _ _

theorem receiveByte_kept (h : Kept r s) (l : Link) (b : Byte) : Kept r (receiveByte l b s) := by
  unfold receiveByte
  split
  · split
    · exact goOn_kept h _ _
    · exact h
  · exact goOn_kept h _ _
  · dsimp only
    split
    · exact discardFrame_kept h _ _
    · exact goOn_kept h _ _
  · exact goOn_kept h _ _
  · exact goOn_kept h _ _
  · exact goOn_kept h _ _
  · exact goOn_kept h _ _
  · exact endFrame_kept h _ _ _

/-! ## Every command, and the step -/

/-- Every command is answered, and keeps the laws. -/
theorem exec_lawful (c : Instr) (s : State) : ∃ t, exec c s = .next t ∧ Lawful s t := by
  cases c with
  | powerOn levels => exact ⟨_, rfl, powerOn_lawful levels s⟩
  | access tag level password => exact ⟨_, rfl, request_lawful _ _ _ (accessRequest_lawful ..)⟩
  | passwordSet tag level password => exact ⟨_, rfl, passwordRequest_lawful ..⟩
  | ident tag clear =>
    refine ⟨_, rfl, request_lawful _ _ _ (reply_lawful (Kept.lawful ?_) _ _ _ _)⟩
    split
    · exact clearFaultCounters_kept (.refl s)
    · exact .refl s
  | date tag day => exact ⟨_, rfl, request_lawful _ _ _ (reply_lawful (setClock_lawful s _) _ _ _ _)⟩
  | setInkMargin tag value =>
    exact ⟨_, rfl, settingRequest_lawful _ _ _ _ fun _ => finish_lawful (releaseChecks_lawful (mapControl_lawful s _))⟩
  | setUncheckedPolicy tag value => exact ⟨_, rfl, settingRequest_lawful _ _ _ _ fun _ => mapControl_lawful s _⟩
  | setNoticeMask tag value =>
    exact ⟨_, rfl, settingRequest_lawful _ _ _ _ fun _ => refreshPanel_lawful (writeMask_lawful ..)⟩
  | setLamp tag value =>
    exact ⟨_, rfl, settingRequest_lawful _ _ _ _ fun _ => refreshPanel_lawful (mapControl_lawful s _)⟩
  | setHaltRouting tag value =>
    exact ⟨_, rfl, settingRequest_lawful _ _ _ _ fun _ =>
      finish_lawful ((setHaltRouting_lawful _ s).kept (haltUpdate_kept (.refl _)))⟩
  | setAttnRouting tag value =>
    exact ⟨_, rfl, settingRequest_lawful _ _ _ _ fun _ => refreshPanel_lawful (mapControl_lawful s _)⟩
  | settingsQuery tag => exact ⟨_, rfl, request_lawful _ _ _ (answer_lawful ..)⟩
  | reset tag => exact ⟨_, rfl, request_lawful _ _ _ (resetRequest_lawful ..)⟩
  | factoryRestore tag => exact ⟨_, rfl, request_lawful _ _ _ (factoryRequest_lawful ..)⟩
  | clearFaultChannel tag channel => exact ⟨_, rfl, request_lawful _ _ _ (clearChannelRequest_kept (.refl s) ..).lawful⟩
  | clearFaultTransport tag => exact ⟨_, rfl, request_lawful _ _ _ (clearTransportRequest_kept (.refl s) _).lawful⟩
  | clearFaultVerdictLatch tag => exact ⟨_, rfl, request_lawful _ _ _ (clearLatchRequest_kept (.refl s) _).lawful⟩
  | printSubmit tag description => exact ⟨_, rfl, request_lawful _ _ _ (submitRequest_sound (.refl s) ..).lawful⟩
  | printRelease tag handle => exact ⟨_, rfl, request_lawful _ _ _ (releaseRequest_kept (.refl s) ..).lawful⟩
  | printCancel tag handle => exact ⟨_, rfl, request_lawful _ _ _ (cancelRequest_kept (.refl s) ..).lawful⟩
  | printQuery tag handle => exact ⟨_, rfl, request_lawful _ _ _ (printQueryReply_kept (.refl s) ..).lawful⟩
  | channelColour tag channel code => exact ⟨_, rfl, request_lawful _ _ _ (colourRequest_lawful ..)⟩
  | inkQuery tag channel => exact ⟨_, rfl, request_lawful _ _ _ (inkQueryReply_kept (.refl s) ..).lawful⟩
  | trimSet tag channel trim => exact ⟨_, rfl, request_lawful _ _ _ (trimRequest_lawful ..)⟩
  | dropRowSet tag row small medium large => exact ⟨_, rfl, request_lawful _ _ _ (dropRowRequest_lawful ..)⟩
  | manualModeSet tag mode row => exact ⟨_, rfl, request_lawful _ _ _ (manualRequest_lawful ..)⟩
  | meterQuery tag channel => exact ⟨_, rfl, request_lawful _ _ _ (meterQueryReply_kept (.refl s) ..).lawful⟩
  | rollLoad tag mediaType width length serial =>
    exact ⟨_, rfl, request_lawful _ _ _ (rollLoadRequest_kept (.refl s) ..).lawful⟩
  | rollConfirm tag => exact ⟨_, rfl, request_lawful _ _ _ (rollConfirmRequest_kept (.refl s) _).lawful⟩
  | move tag distance => exact ⟨_, rfl, request_lawful _ _ _ (moveRequest_kept (.refl s) ..).lawful⟩
  | rollQuery tag => exact ⟨_, rfl, request_lawful _ _ _ (answer_lawful ..)⟩
  | cutAt tag position chute => exact ⟨_, rfl, request_lawful _ _ _ (cutAtRequest_kept (.refl s) ..).lawful⟩
  | cutNow tag chute => exact ⟨_, rfl, request_lawful _ _ _ (cutNowRequest_kept (.refl s) ..).lawful⟩
  | cutQuery tag => exact ⟨_, rfl, request_lawful _ _ _ (answer_lawful ..)⟩
  | referenceLoad tag index count patches warn fail =>
    exact ⟨_, rfl, request_lawful _ _ _ (referenceLoadRequest_lawful ..)⟩
  | referenceSeal tag index => exact ⟨_, rfl, request_lawful _ _ _ (referenceSealRequest_kept (.refl s) ..).lawful⟩
  | referenceQuery tag index => exact ⟨_, rfl, request_lawful _ _ _ (referenceQueryRequest_kept (.refl s) ..).lawful⟩
  | calibrate tag => exact ⟨_, rfl, request_lawful _ _ _ (calibrateRequest_kept (.refl s) _).lawful⟩
  | colourQuery tag => exact ⟨_, rfl, request_lawful _ _ _ (answer_lawful ..)⟩
  | editionOpen tag id title limit apLimit refSet mediaType =>
    exact ⟨_, rfl, request_lawful _ _ _ (editionOpenRequest_kept (.refl s) ..).lawful⟩
  | editionHold tag id => exact ⟨_, rfl, request_lawful _ _ _ (editionHoldRequest_kept (.refl s) ..).lawful⟩
  | editionResume tag id => exact ⟨_, rfl, request_lawful _ _ _ (editionResumeRequest_kept (.refl s) ..).lawful⟩
  | editionClose tag id => exact ⟨_, rfl, request_lawful _ _ _ (editionCloseRequest_kept (.refl s) ..).lawful⟩
  | editionArchive tag id => exact ⟨_, rfl, request_lawful _ _ _ (editionArchiveRequest_kept (.refl s) ..).lawful⟩
  | editionQuery tag id => exact ⟨_, rfl, request_lawful _ _ _ (editionQueryReply_kept (.refl s) ..).lawful⟩
  | closedQuery tag start => exact ⟨_, rfl, request_lawful _ _ _ (closedQueryReply_kept (.refl s) ..).lawful⟩
  | tariffSet tag lot price => exact ⟨_, rfl, request_lawful _ _ _ (tariffRequest_lawful ..)⟩
  | mediaSet tag mediaType name price adjustment => exact ⟨_, rfl, request_lawful _ _ _ (mediaSetRequest_lawful ..)⟩
  | costRead tag => exact ⟨_, rfl, request_lawful _ _ _ (costReadRequest_kept (.refl s) _).lawful⟩
  | costDrop tag sequence => exact ⟨_, rfl, request_lawful _ _ _ (costDropRequest_lawful ..)⟩
  | priceQueryTariff tag => exact ⟨_, rfl, request_lawful _ _ _ (answer_lawful ..)⟩
  | priceQueryMedia tag => exact ⟨_, rfl, request_lawful _ _ _ (answer_lawful ..)⟩
  | priceQueryLog tag => exact ⟨_, rfl, request_lawful _ _ _ (answer_lawful ..)⟩
  | engineQuery tag => exact ⟨_, rfl, request_lawful _ _ _ (answer_lawful ..)⟩
  | unknownKind tag kind => exact ⟨_, rfl, answer_lawful ..⟩
  | frameCheckFault link => exact ⟨_, rfl, (refreshPanel_kept (discardFrame_kept (.refl s) _ _)).lawful⟩
  | frameLengthFault link => exact ⟨_, rfl, (refreshPanel_kept (discardFrame_kept (.refl s) _ _)).lawful⟩
  | gapTimeout link => exact ⟨_, rfl, (refreshPanel_kept (gapExpires_kept (.refl s) _)).lawful⟩
  | overrun frame => exact ⟨_, rfl, (refreshPanel_kept (receiveFrame_kept (.refl s) _)).lawful⟩
  | sendListDrain sent => exact ⟨_, rfl, (refreshPanel_kept (drainSendList_kept (.refl s) _)).lawful⟩
  | engineReady tag => exact ⟨_, rfl, (readyFrame_kept (.refl s) _).lawful⟩
  | swath tag report => exact ⟨_, rfl, (swathFrame_kept (.refl s) ..).lawful⟩
  | feedAsk tag handle distance => exact ⟨_, rfl, (feedAskFrame_kept (.refl s) ..).lawful⟩
  | printDone tag handle => exact ⟨_, rfl, (printDone_kept (hearAndRefresh_kept (.refl s) _) ..).lawful⟩
  | printFail tag handle cause => exact ⟨_, rfl, (printFailFrame_kept (.refl s) ..).lawful⟩
  | engineUnknownKind tag kind => exact ⟨_, rfl, (refuseFrame_kept (hearAndRefresh_kept (.refl s) _) ..).lawful⟩
  | silenceTimeout =>
    refine ⟨_, rfl, Kept.lawful ?_⟩
    split
    · exact .refl s
    · exact silenceExpires_kept (.refl s) _
  | calibrated tag => exact ⟨_, rfl, (calibrated_kept (.refl s) _).lawful⟩
  | calibrationFault tag cause => exact ⟨_, rfl, (calibrationFault_kept (.refl s) ..).lawful⟩
  | calibrationTimeout => exact ⟨_, rfl, (calibrationExpires_kept (.refl s)).lawful⟩
  | calibrationRetryExpiry => exact ⟨_, rfl, (retryExpires_kept (.refl s)).lawful⟩
  | readings tag list => exact ⟨_, rfl, (readingsFrame_kept (.refl s) ..).lawful⟩
  | scanFault tag cause => exact ⟨_, rfl, (scanFaultFrame_kept (.refl s) ..).lawful⟩
  | scanTimeout => exact ⟨_, rfl, (scanExpires_kept (.refl s)).lawful⟩
  | spectroFrameIgnored frame => exact ⟨_, rfl, .refl s⟩
  | flushWaitExpiry => exact ⟨_, rfl, (flushExpires_kept (.refl s)).lawful⟩
  | cartridgeInserted slot => exact ⟨_, rfl, (insertCartridge_kept (.refl s) _).lawful⟩
  | cartridgeRemoved slot => exact ⟨_, rfl, (removeCartridge_kept (.refl s) _).lawful⟩
  | tagReadDone result => exact ⟨_, rfl, (tagRead_kept (.refl s) _).lawful⟩
  | tagWriteDone ok => exact ⟨_, rfl, (tagWrite_kept (.refl s) _).lawful⟩
  | tagTransferTimeout => exact ⟨_, rfl, (tagTimeout_kept (.refl s)).lawful⟩
  | flowPulse channel => exact ⟨_, rfl, (pulse_kept (.refl s) _).lawful⟩
  | refillTimeout channel => exact ⟨_, rfl, (refillExpires_kept (.refl s) _).lawful⟩
  | drySense channel => exact ⟨_, rfl, (drySensed_kept (.refl s) _).lawful⟩
  | driverArrival => exact ⟨_, rfl, (arrival_kept (.refl s)).lawful⟩
  | movementTimeout => exact ⟨_, rfl, (movementExpires_kept (.refl s)).lawful⟩
  | driverFault => exact ⟨_, rfl, (driverFaults_kept (.refl s)).lawful⟩
  | rollPresentChange level => exact ⟨_, rfl, (rollPresentTakes_kept (.refl s) _).lawful⟩
  | rollEnd => exact ⟨_, rfl, (rollEndTrips_kept (.refl s)).lawful⟩
  | flapSettled => exact ⟨_, rfl, (flapSettles_kept (.refl s)).lawful⟩
  | settleLimitExpiry => exact ⟨_, rfl, (settleExpires_kept (.refl s)).lawful⟩
  | bladeHome => exact ⟨_, rfl, (bladeReturns_kept (.refl s)).lawful⟩
  | bladeLimitExpiry => exact ⟨_, rfl, (bladeExpires_kept (.refl s)).lawful⟩
  | blinkPeriod => exact ⟨_, rfl, (refreshPanel_kept (timeTo_kept (.refl s) _)).lawful⟩
  | dayTimerExpiry => exact ⟨_, rfl, refreshPanel_lawful (dayTimer_lawful s)⟩
  | rollEndSensorShowsMedia =>
    exact ⟨_, rfl, (refreshPanel_kept (rollNotice_kept (setRollEnd_kept (.refl s) _) _)).lawful⟩
  | linkByteReceived link byte => exact ⟨_, rfl, (refreshPanel_kept (receiveByte_kept (.refl s) _ _)).lawful⟩
  | bladeLeavesRest => exact ⟨_, rfl, (bladeLeaves_kept (.refl s)).lawful⟩

theorem handleFrame_lawful (f : Frame) (s : State) : ∃ t, handleFrame f s = .next t ∧ Lawful s t := by
  unfold handleFrame
  split
  · exact exec_lawful _ s
  · exact ⟨_, rfl, answer_lawful ..⟩
  · exact ⟨_, rfl, request_lawful _ _ _ (answer_lawful ..)⟩

theorem tick_lawful (s : State) : ∃ t, tick s = .next t ∧ Lawful s t := by
  unfold tick
  split
  · exact exec_lawful _ s
  · exact ⟨_, rfl, (timeTo_kept (.refl s) _).lawful⟩

/-- The oldest frame leaves the receive list (R181). -/
theorem dropFrame_lawful {f : Frame} {rest : List Frame} (h : s.control.receiveList = f :: rest) :
    Lawful s (s.mapControl fun k => { k with receiveList := rest }) := by
  have hl (l : Capacities s) : rest.length ≤ 4 := by
    have := l.receiveList
    rw [h, List.length_cons] at this
    omega
  exact .ofAside ⟨id, id, id, fun l => { l with receiveList := hl l }, id⟩

theorem running_lawful (s : State) : ∃ t, running s = .next t ∧ Lawful s t := by
  unfold running
  split
  · rename_i f rest hr
    obtain ⟨t, ht, hl⟩ := handleFrame_lawful f (s.mapControl fun k => { k with receiveList := rest })
    exact ⟨t, ht, (dropFrame_lawful hr).trans (fun _ => ⟨.refl _, id⟩) hl⟩
  · split
    · exact exec_lawful _ s
    · exact tick_lawful s

/-- A step is lawful from the state with the commands that it leaves waiting. -/
theorem step_lawful (s : State) : ∃ q t, step s = .next t ∧ Lawful { s with pending := q } t := by
  unfold step
  split
  · refine ⟨s.pending, ?_⟩
    unfold idle
    split
    · exact ⟨_, rfl, .refl s⟩
    · exact running_lawful s
  · exact ⟨_, exec_lawful _ _⟩

theorem lawful_of_step (h : step s = .next t) : ∃ q, Lawful { s with pending := q } t := by
  obtain ⟨q, u, hu, hl⟩ := step_lawful s
  rw [hu] at h
  cases h
  exact ⟨q, hl⟩

/-- The waiting commands take no part in the law of the reservations. -/
theorem SupplyBut.waiting {x : Chan → Prop} (l : SupplyBut x s) (q : List Instr) : SupplyBut x { s with pending := q } :=
  supply_same (s := s) (t := { s with pending := q }) rfl rfl (fun _ => rfl) x l

/-- The waiting commands take no part in the ties. -/
theorem TiesBut.waiting {x : Nat → Prop} (l : TiesBut x s) (q : List Instr) : TiesBut x { s with pending := q } :=
  ties_same (s := s) (t := { s with pending := q }) rfl rfl rfl x l

/-! ## The obligations -/

/-- The print queue's law bounds the cost log and the live prints together (R159). -/
theorem PrintsLaw.log_le {prints : List PrintRecord} {engine : EngineState} {marker : Option OpenMarker} {hold : Hold}
    {log : List CostRecord} (l : PrintsLaw prints engine marker hold log) : log.length ≤ 128 := by
  have := l.places
  omega

/-- At most one print is ACTIVE, since the marker names them all (R3, R201). -/
theorem PrintsLaw.one_active {prints : List PrintRecord} {engine : EngineState} {marker : Option OpenMarker}
    {hold : Hold} {log : List CostRecord} (l : PrintsLaw prints engine marker hold log) :
    (prints.filter (·.state == .active)).length ≤ 1 := by
  rw [← List.length_map (f := (·.handle)), l.active]
  cases marker <;> simp

/-- The engine is PRINTING exactly while a print is ACTIVE (R165). -/
theorem PrintsLaw.printing_iff {prints : List PrintRecord} {engine : EngineState} {marker : Option OpenMarker}
    {hold : Hold} {log : List CostRecord} (l : PrintsLaw prints engine marker hold log) :
    engine = .printing ↔ ∃ p ∈ prints, p.state = .active := by
  have ha : marker.isSome = true ↔ (prints.filter (·.state == .active)) ≠ [] := by
    rw [ne_eq, ← List.map_eq_nil_iff (f := (·.handle)), l.active]
    cases marker <;> simp
  rw [l.printing, ha]
  simp [List.filter_eq_nil_iff]

/-- Settles O7: the bounds are among the five laws, and the print queue's law and the reservations' are kept where the
laws of the work hold. -/
theorem capacitiesKept : Obligations.CapacitiesKept := by
  unfold Obligations.CapacitiesKept
  refine ⟨fun s t l h => ?_, fun s t w h => ?_, fun s t w l v h => ?_⟩ <;> obtain ⟨q, k⟩ := lawful_of_step h
  · exact k.laws.capacities { l with }
  · have hp := (k.work w).printsLaw
    exact ⟨hp, hp.log_le, hp.places⟩
  · have hv : SupplyBut (fun _ => False) t := k.supply w _ (((supplyLaw_iff l.prints).mp v).waiting q)
    have hl := (supplyLaw_iff hv.room).mpr hv
    exact ⟨hl, hl.within⟩

/-- Settles O8: the silence law is one of the five, and the print queue's law ties the ACTIVE prints, the open-print
marker and PRINTING together. -/
theorem silenceLawKept : Obligations.SilenceLawKept := by
  unfold Obligations.SilenceLawKept
  refine ⟨fun s t l h => ?_, fun s t w h => ?_⟩ <;> obtain ⟨q, k⟩ := lawful_of_step h
  · exact k.laws.silence l
  · have hp := (k.work w).printsLaw
    exact ⟨hp.one_active, hp.printing_iff⟩

/-- Settles O11: only REFERENCE_LOAD writes a set's contents, and it writes OPEN sets alone; the ties are among the laws
that every command keeps. -/
theorem sealedForever : Obligations.SealedForever := by
  unfold Obligations.SealedForever
  refine ⟨fun s t i hm h => ?_, fun s t i hm h => ?_, fun s t w l h => ?_⟩ <;> obtain ⟨q, k⟩ := lawful_of_step h
  · have ho : (s.colour.sets[i]).mode ≠ .opened := by rw [hm]; decide
    exact ((k.sets i).resolve_left ho).sealed hm
  · have hs := (k.sets i).resolve_left hm
    exact ⟨hs.patches, hs.warn, hs.fail⟩
  · exact tiesLaw_iff.mpr (k.ties w _ ((tiesLaw_iff.mp l).waiting q))

end Sys2Proof.Machine
end

section
/-! PROOFS. What the shared operations leave alone, as equations: a record or an entry found again after a change of its
table, and the fields that the notices, the release checks and the refills at the end of a print do not write. -/

namespace Sys2Proof.Machine

open Sys2Proof

variable {r s t : State}

/-! ## A record or an entry found again -/

/-- A change of the records that keeps their handles finds each record changed. -/
theorem findPrint_map {g : PrintRecord → PrintRecord} (hq : t.queue.prints = s.queue.prints.map g)
    (hg : ∀ p, (g p).handle = p.handle) (n : Nat) : t.findPrint n = (s.findPrint n).map g := by
  unfold State.findPrint
  rw [hq, List.find?_map]
  congr 2
  funext p
  simp [hg]

theorem findPrint_queue (hq : t.queue.prints = s.queue.prints) (n : Nat) : t.findPrint n = s.findPrint n := by
  unfold State.findPrint
  rw [hq]

/-- The record of another handle stays. -/
theorem findPrint_mapPrint_ne {n h : Nat} (f : PrintRecord → PrintRecord) (hf : ∀ p, (f p).handle = p.handle)
    (hn : n ≠ h) : (s.mapPrint h f).findPrint n = s.findPrint n := by
  rw [findPrint_map (s := s) rfl (fun p => by split <;> simp [hf])]
  cases hp : s.findPrint n with
  | none => rfl
  | some p => simp [findPrint_handle hp, hn]

/-- A change of the entries that keeps their ids finds each entry changed. -/
theorem findEdition_map {g : Edition → Edition} (ht : t.registry.table = s.registry.table.map g)
    (hg : ∀ e, (g e).id = e.id) (id : Nat) : t.findEdition id = (s.findEdition id).map g := by
  unfold State.findEdition
  rw [ht, List.find?_map]
  congr 2
  funext e
  simp [hg]

theorem findEdition_id {id : Nat} {e : Edition} (h : s.findEdition id = some e) : e.id = id := by
  simpa using List.find?_some h

/-- The entry of a print, changed with its print's edition. -/
theorem findEdition_mapEditionOf {id : Nat} {e : Edition} (h : s.findEdition id = some e) (p : PrintRecord)
    (f : Edition → Edition) (hf : ∀ e, (f e).id = e.id) :
    (s.mapEditionOf p f).findEdition id = some (if p.editionId = some id then f e else e) := by
  have hi := findEdition_id h
  unfold State.mapEditionOf
  split
  · rename_i j hj
    rw [findEdition_map (s := s) (g := fun e => if e.id == j then f e else e) rfl (fun e => by split <;> simp [hf]), h]
    by_cases hji : j = id
    · simp [hj, hi, hji]
    · simp [hj, hi, hji, Ne.symm hji]
  · rename_i hn
    simpa [hn] using h

/-- An entry that differs in its in-flight counts alone. -/
def SameButFlying (e d : Edition) : Prop := ∃ a b, d = { e with inFlight := a, apInFlight := b }

theorem SameButFlying.refl (e : Edition) : SameButFlying e e := ⟨_, _, rfl⟩

theorem SameButFlying.trans {a b c : Edition} (h : SameButFlying a b) (g : SameButFlying b c) : SameButFlying a c := by
  obtain ⟨_, _, rfl⟩ := h
  obtain ⟨_, _, rfl⟩ := g
  exact ⟨_, _, rfl⟩

theorem mapInFlight_same (e : Edition) (k : PrintKind) (f : Nat → Nat) : SameButFlying e (e.mapInFlight k f) := by
  cases k <;> exact ⟨_, _, rfl⟩

/-- The edition of a print changes the registry alone. -/
theorem mapEditionOf_registry (s : State) (p : PrintRecord) (f : Edition → Edition) :
    ∃ g, s.mapEditionOf p f = { s with registry := g } := by
  unfold State.mapEditionOf
  split <;> exact ⟨_, rfl⟩

/-! ## Notices and flags -/

theorem printNotice_control (n : Nat) (news : PrintNews) (s : State) :
    ∃ k, printNotice n news s = { s with control := k } := by
  unfold printNotice
  split
  · exact raise_control _ s
  · exact ⟨_, rfl⟩

theorem rollNotice_control (news : RollNews) (s : State) : ∃ k, rollNotice news s = { s with control := k } :=
  raise_control _ s

/-- The early-full flag's action changes the flag and the control link alone. -/
theorem earlyFullCheck_frame (s : State) :
    ∃ f k, earlyFullCheck s = { s with cost := { s.cost with earlyFull := f }, control := k } := by
  unfold earlyFullCheck
  split
  · split
    · obtain ⟨k, hk⟩ := raise_control
        (.costLog s.cost.log.length s.liveCount s.freeSpace (s.cost.log.head?.map (·.sequence)))
        { s with cost := { s.cost with earlyFull := .sent } }
      exact ⟨_, k, hk⟩
    · exact ⟨_, _, rfl⟩
  · exact ⟨_, _, rfl⟩

/-! ## The release checks -/

/-- What the release checks leave: all but the WAITING records, the ready order, the in-flight counts, the early-full flag
and the control link. -/
structure Rechecked (s t : State) : Prop where
  frame : ∃ prints order registry flag control, t = { s with
    queue := { s.queue with prints := prints, readyOrder := order }, registry := registry
    cost := { s.cost with earlyFull := flag }, control := control }
  prints : ∀ n p, s.findPrint n = some p → p.state ≠ .waiting → t.findPrint n = some p
  editions : ∀ id e, s.findEdition id = some e → ∃ d, t.findEdition id = some d ∧ SameButFlying e d

theorem Rechecked.trans (h : Rechecked r s) (g : Rechecked s t) : Rechecked r t where
  frame := by
    obtain ⟨_, _, _, _, _, rfl⟩ := h.frame
    obtain ⟨_, _, _, _, _, rfl⟩ := g.frame
    exact ⟨_, _, _, _, _, rfl⟩
  prints n p hp hw := g.prints n p (h.prints n p hp hw) hw
  editions id e he := by
    obtain ⟨d, hd, h1⟩ := h.editions id e he
    obtain ⟨c, hc, h2⟩ := g.editions id d hd
    exact ⟨c, hc, h1.trans h2⟩

/-- A change of the control link and the early-full flag. -/
theorem Rechecked.told (s : State) (f : ArmFlag) (k : ControlLink) :
    Rechecked s { s with cost := { s.cost with earlyFull := f }, control := k } :=
  ⟨⟨_, _, _, _, _, rfl⟩, fun _ _ h _ => h, fun _ e h => ⟨e, h, .refl e⟩⟩

theorem Rechecked.refl (s : State) : Rechecked s s := .told s s.cost.earlyFull s.control

theorem printNotice_rechecked (n : Nat) (news : PrintNews) (s : State) : Rechecked s (printNotice n news s) := by
  obtain ⟨k, hk⟩ := printNotice_control n news s
  exact hk ▸ .told s _ k

theorem earlyFullCheck_rechecked (s : State) : Rechecked s (earlyFullCheck s) := by
  obtain ⟨f, k, hk⟩ := earlyFullCheck_frame s
  exact hk ▸ .told s f k

/-- The record of a WAITING print, changed. -/
theorem Rechecked.mapWaiting {n : Nat} {p : PrintRecord} (hp : s.findPrint n = some p) (hw : p.state = .waiting)
    (f : PrintRecord → PrintRecord) (hf : ∀ p, (f p).handle = p.handle) : Rechecked s (s.mapPrint n f) where
  frame := ⟨_, _, _, _, _, rfl⟩
  prints m q hq hn := by
    by_cases hm : m = n
    · subst hm
      rw [hp] at hq
      cases hq
      exact absurd hw hn
    · rw [findPrint_mapPrint_ne f hf hm, hq]
  editions _ e he := ⟨e, he, .refl e⟩

/-- The in-flight count of a print's kind, changed. -/
theorem Rechecked.mapFlying (s : State) (p : PrintRecord) (f : Nat → Nat) :
    Rechecked s (s.mapEditionOf p fun e => e.mapInFlight p.kind f) where
  frame := by
    obtain ⟨g, hg⟩ := mapEditionOf_registry s p fun e => e.mapInFlight p.kind f
    exact ⟨_, _, _, _, _, hg⟩
  prints n q hq _ := (findPrint_queue (by rw [State.mapEditionOf_queue]) n).trans hq
  editions id e he := by
    refine ⟨_, findEdition_mapEditionOf he p _ fun e => mapInFlight_id e _ _, ?_⟩
    split
    · exact mapInFlight_same e _ _
    · exact .refl e

theorem Rechecked.setOrder (s : State) (order : List Nat) :
    Rechecked s { s with queue := { s.queue with readyOrder := order } } :=
  ⟨⟨_, _, _, _, _, rfl⟩, fun _ _ h _ => h, fun _ e h => ⟨e, h, .refl e⟩⟩

theorem releasePrint_rechecked {p : PrintRecord} (hp : s.findPrint p.handle = some p) (hw : p.state = .waiting) :
    Rechecked s (releasePrint p s) := by
  have hp' : (s.mapEditionOf p fun e => e.mapInFlight p.kind (· + 1)).findPrint p.handle = some p :=
    (findPrint_queue (by rw [State.mapEditionOf_queue]) _).trans hp
  unfold releasePrint
  refine Rechecked.trans ?_ (earlyFullCheck_rechecked _)
  refine Rechecked.trans ?_ (printNotice_rechecked _ _ _)
  refine Rechecked.trans ?_ (.setOrder _ _)
  exact (Rechecked.mapFlying s p (· + 1)).trans (.mapWaiting hp' hw _ fun _ => rfl)

theorem visitWaiting_rechecked (s : State) (n : Nat) : Rechecked s (visitWaiting s n) := by
  unfold visitWaiting
  split
  · exact .refl s
  · rename_i p hp
    have hn := findPrint_handle hp
    subst hn
    split
    · rename_i hw
      dsimp only
      split
      · exact releasePrint_rechecked hp hw
      · split
        · exact .refl s
        · refine Rechecked.trans ?_ (printNotice_rechecked _ _ _)
          exact .mapWaiting hp hw _ fun _ => rfl
    · exact .refl s

theorem releaseChecks_rechecked (s : State) : Rechecked s (releaseChecks s) := by
  unfold releaseChecks
  generalize s.queue.prints.map (·.handle) = l
  induction l generalizing s with
  | nil => exact .refl s
  | cons n l ih => exact (visitWaiting_rechecked s n).trans (ih _)

/-! ## The refills at the end of a print -/

/-- What a refill's start, end or resumption leaves: all but the ink, the refill markers and the control link. -/
def InkFrame (s t : State) : Prop :=
  ∃ i m k, t = { s with ink := i, store := { s.store with refills := m }, control := k }

theorem InkFrame.refl (s : State) : InkFrame s s := ⟨_, _, _, rfl⟩

theorem InkFrame.trans (h : InkFrame r s) (g : InkFrame s t) : InkFrame r t := by
  obtain ⟨_, _, _, rfl⟩ := h
  obtain ⟨_, _, _, rfl⟩ := g
  exact ⟨_, _, _, rfl⟩

theorem reconsider_frame (c : Chan) (s : State) : InkFrame s (reconsider c s) := by
  unfold reconsider
  dsimp only
  split
  · split
    · exact ⟨_, _, _, rfl⟩
    · split
      · exact ⟨_, _, _, rfl⟩
      · split
        · exact ⟨_, _, _, rfl⟩
        · unfold startRefill
          dsimp only
          split
          · exact .refl s
          · exact ⟨_, _, _, rfl⟩
  · exact .refl s

theorem inkNotice_frame (c : Chan) (s : State) : InkFrame s (inkNotice c s) := by
  obtain ⟨k, hk⟩ := raise_control (.ink c (s.channel c).indication (s.channel c).level (s.channel c).usable
    (s.channel c).parcels.length (s.channel c).installed) s
  unfold inkNotice
  dsimp only
  rw [hk]
  exact ⟨_, _, _, rfl⟩

theorem endRefill_frame (c : Chan) (s : State) : InkFrame s (endRefill c s) := by
  have hs : InkFrame s (setRefill c .idle s) := ⟨_, _, _, rfl⟩
  have hn : ∀ u, InkFrame u (installedNotice c u) := fun u => by
    unfold installedNotice
    split
    · exact inkNotice_frame c u
    · exact .refl u
  exact (hs.trans (hn _)).trans (reconsider_frame c _)

theorem resumeRefill_frame (c : Chan) (s : State) : InkFrame s (resumeRefill c s) := by
  unfold resumeRefill
  dsimp only
  split
  · split
    · exact endRefill_frame c s
    · split
      · exact ⟨_, _, _, rfl⟩
      · exact endRefill_frame c s
  · exact .refl s

theorem inkPrintEnds_frame (s : State) : InkFrame s (inkPrintEnds s) := by
  unfold inkPrintEnds
  generalize channelList = l
  induction l generalizing s with
  | nil => exact .refl s
  | cons c l ih =>
    refine InkFrame.trans ?_ (ih _)
    dsimp only
    split
    · exact resumeRefill_frame c s
    · exact reconsider_frame c s

end Sys2Proof.Machine
end

section
/-! PROOFS. The requests that read or write one table: the queries, the settings, and the print requests. -/

namespace Sys2Proof.Machine

open Sys2Proof

variable {s t : State}

/-! ## Access and bounded numbers -/

/-- A request that OPERATOR may make is never refused ACCESS (R182). -/
theorem request_operator (tag kind : Nat) (body : State → State) (s : State) :
    request tag kind .operator body s = body s := by
  simp [request, levelAllows, AccessLevel.rank]

theorem next_request_operator (tag kind : Nat) (body : State → State) (s : State) :
    (.next (request tag kind .operator body s) : Result) = .next (body s) := congrArg _ (request_operator ..)

/-- STUDIO and SERVICE may make what STUDIO may (R187). -/
theorem request_studio (h : s.control.level ≠ .operator) (tag kind : Nat) (body : State → State) :
    request tag kind .studio body s = body s := by
  have hl : levelAllows s.control.level .studio = true := by
    cases hc : s.control.level with
    | operator => exact absurd hc h
    | studio => rfl
    | service => rfl
  simp [request, hl]

theorem boundedOf_val {n : Nat} (i : Fin n) : boundedOf n i.val = some i := by simp [boundedOf]

theorem boundedOf_none {n k : Nat} (h : n ≤ k) : boundedOf n k = none := by simp [boundedOf, h]

theorem channelOf_val (c : Chan) : channelOf c.val = some c := by simp [channelOf]

theorem channelOf_none {n : Nat} (h : 12 ≤ n) : channelOf n = none := by simp [channelOf, h]

/-! ## The queries -/

theorem exec_printQuery (tag : Nat) (h : Option Nat) (s : State) :
    exec (.printQuery tag h) s = .next (printQueryReply tag h s) := next_request_operator ..

theorem exec_inkQuery (tag : Nat) (c : Option Nat) (s : State) :
    exec (.inkQuery tag c) s = .next (inkQueryReply tag c s) := next_request_operator ..

theorem exec_meterQuery (tag : Nat) (c : Option Nat) (s : State) :
    exec (.meterQuery tag c) s = .next (meterQueryReply tag c s) := next_request_operator ..

theorem exec_referenceQuery (tag i : Nat) (s : State) :
    exec (.referenceQuery tag i) s = .next (referenceQueryRequest tag i s) := next_request_operator ..

theorem exec_editionQuery (tag : Nat) (id : Option Nat) (s : State) :
    exec (.editionQuery tag id) s = .next (editionQueryReply tag id s) := next_request_operator ..

theorem exec_closedQuery (tag start : Nat) (s : State) :
    exec (.closedQuery tag start) s = .next (closedQueryReply tag start s) := next_request_operator ..

theorem exec_costRead (tag : Nat) (s : State) : exec (.costRead tag) s = .next (costReadRequest tag s) :=
  next_request_operator ..

theorem insertLine_perm (l : EditionLine) (ls : List EditionLine) : (insertLine l ls).Perm (l :: ls) := by
  induction ls with
  | nil => exact .refl _
  | cons x xs ih =>
    unfold insertLine
    split
    · exact .refl _
    · exact (ih.cons x).trans (.swap l x xs)

/-- Whatever the open rank, the lines of EDITION_QUERY are those of the entries (R144). -/
theorem editionLines_perm (table : List Edition) : (editionLines table).Perm (table.map editionLine) := by
  induction table with
  | nil => exact .refl _
  | cons e es ih => exact (insertLine_perm _ _).trans (ih.cons _)

/-- Settles O20: each query's reply function, taken through its cases. -/
theorem queriesChangeNothing : Obligations.QueriesChangeNothing := by
  unfold Obligations.QueriesChangeNothing
  intro tag s
  refine ⟨next_request_operator .., exec_printQuery _ _ _, fun h p hp => ?_, fun h hp => ?_, exec_inkQuery _ _ _, fun c => ?_,
    fun n hn => ?_, exec_meterQuery _ _ _, fun c => ?_, fun n hn => ?_, next_request_operator .., next_request_operator .., fun i => ?_,
    fun n hn => ?_, next_request_operator .., ⟨_, editionLines_perm _, exec_editionQuery _ _ _⟩, fun id e he => ?_,
    fun id he => ?_, fun start hn => ?_, fun start hn => ?_, fun r rest hl => ?_, fun hl => ?_, next_request_operator ..,
    next_request_operator .., next_request_operator .., next_request_operator ..⟩
  case refine_1 | refine_2 => simp only [exec_printQuery, printQueryReply, hp]
  case refine_3 => simp only [exec_inkQuery, inkQueryReply, channelOf_val]
  case refine_4 => simp only [exec_inkQuery, inkQueryReply, channelOf_none hn]
  case refine_5 => simp only [exec_meterQuery, meterQueryReply, channelOf_val]
  case refine_6 => simp only [exec_meterQuery, meterQueryReply, channelOf_none hn]
  case refine_7 => simp only [exec_referenceQuery, referenceQueryRequest, boundedOf_val]
  case refine_8 => simp only [exec_referenceQuery, referenceQueryRequest, boundedOf_none hn]
  case refine_9 | refine_10 => simp only [exec_editionQuery, editionQueryReply, he]
  case refine_11 => simp only [exec_closedQuery, closedQueryReply, Nat.not_lt.mpr hn, if_false]
  case refine_12 => simp only [exec_closedQuery, closedQueryReply, hn, if_true]
  case refine_13 | refine_14 => simp [exec_costRead, costReadRequest, hl]

/-! ## The settings -/

/-- SETTING_SET above OPERATOR: a value of the setting's set is written and replied (R188). -/
theorem settingRequest_written {α : Type} (hs : s.control.level ≠ .operator) (tag : Nat) {value : Option α} {v : α}
    (hv : value = some v) (write : α → State → State) (now : α → SettingNow) :
    settingRequest tag value write now s = reply tag .ok 0x05 (.setting (now v)) (write v s) := by
  rw [settingRequest, request_studio hs, hv]

/-- A value outside its set is refused RANGE (R188). -/
theorem settingRequest_refused {α : Type} (hs : s.control.level ≠ .operator) (tag : Nat) {value : Option α}
    (hv : value = none) (write : α → State → State) (now : α → SettingNow) :
    settingRequest tag value write now s = reply tag .range 0x05 .none s := by
  rw [settingRequest, request_studio hs, hv]

theorem inkMarginOf_some {m : Nat} (h : m ≤ 25) : inkMarginOf (BitVec.ofNat 32 m) = some m := by
  have hm : m % 2 ^ 32 = m := Nat.mod_eq_of_lt (by omega)
  simp only [inkMarginOf, BitVec.toNat_ofNat, hm, h, if_true]

theorem inkMarginOf_none {v : BitVec 32} (h : 25 < v.toNat) : inkMarginOf v = none := by
  simp [inkMarginOf, h]

theorem policyOf_none {v : BitVec 32} (h : 1 < v.toNat) : policyOf v = none := by
  unfold policyOf
  split <;> first | omega | rfl

/-- FRAME_FAULT has no mask (R185). -/
theorem noticeMaskOf_frameFault {v : BitVec 32} (h : v.toNat % 256 = 0x9B) : noticeMaskOf v = none := by
  have hb : settingByte v 0 = 0x9B := by simpa [settingByte] using h
  have hk : maskableOf 0x9B = none := rfl
  unfold noticeMaskOf
  rw [hb, hk]
  simp

theorem lampOf_none {v : BitVec 32} (h : 3 < v.toNat % 256) : lampOf v = none := by
  have hv : settingByte v 0 = v.toNat % 256 := by simp [settingByte]
  have hb : boundedOf 4 (settingByte v 0) = none := boundedOf_none (by omega)
  simp [lampOf, hb]

/-- INK_OUT and ROLL_ENDED are no routed conditions (R173). -/
theorem haltRoutingOf_none {v : BitVec 32} (h : v.getLsbD 0 = true ∨ v.getLsbD 1 = true) : haltRoutingOf v = none := by
  have hm : v.toNat % 4 ≠ 0 := by
    simp only [BitVec.getLsbD, Nat.testBit_eq_decide_div_mod_eq, decide_eq_true_eq] at h
    omega
  simp [haltRoutingOf, hm]

theorem attnRoutingOf_none {v : BitVec 32} (h : 512 ≤ v.toNat) : attnRoutingOf v = none := by
  simp [attnRoutingOf, h]

/-- Settles O22: the value's code gives what is written, or nothing. -/
theorem settingWrites : Obligations.SettingWrites := by
  unfold Obligations.SettingWrites
  intro tag s hs
  have written {α : Type} {value : Option α} {v : α} (hv : value = some v) (write : α → State → State)
      (now : α → SettingNow) : (.next (settingRequest tag value write now s) : Result) =
        .next (reply tag .ok 0x05 (.setting (now v)) (write v s)) := congrArg _ (settingRequest_written hs _ hv _ _)
  have refused {α : Type} {value : Option α} (hv : value = none) (write : α → State → State)
      (now : α → SettingNow) : (.next (settingRequest tag value write now s) : Result) =
        .next (reply tag .range 0x05 .none s) := congrArg _ (settingRequest_refused hs _ hv _ _)
  exact ⟨fun m hm => written (inkMarginOf_some hm) _ _, written (value := policyOf 0#32) rfl _ _,
    written (value := policyOf 1#32) rfl _ _, fun v kind hv => written hv _ _, fun v kind hv => written hv _ _,
    fun v lamp l hv => written hv _ _, fun v r hv => written hv _ _, fun v r hv => written hv _ _,
    fun v hv => refused (inkMarginOf_none hv) _ _, fun v hv => refused (policyOf_none hv) _ _,
    fun v hv => refused (noticeMaskOf_frameFault hv) _ _, fun v hv => refused (lampOf_none hv) _ _,
    fun v hv => refused (haltRoutingOf_none hv) _ _, fun v hv => refused (attnRoutingOf_none hv) _ _⟩

/-! ## The print requests -/

theorem exec_printSubmit (tag : Nat) (d : PrintDescription) (s : State) :
    exec (.printSubmit tag d) s = .next (submitRequest tag d s) := next_request_operator ..

theorem exec_printRelease (tag h : Nat) (s : State) : exec (.printRelease tag h) s = .next (releaseRequest tag h s) :=
  next_request_operator ..

theorem exec_printCancel (tag h : Nat) (s : State) : exec (.printCancel tag h) s = .next (cancelRequest tag h s) :=
  next_request_operator ..

/-- A submission that passes its tests (R5). -/
def admitted (tag : Nat) (kind : PrintKind) (d : PrintDescription) (refSet : Option Nat) (s : State) : State :=
  reply tag .ok 0x10 (submittedReply (enqueue kind d refSet s)) (finish (enqueue kind d refSet s))

/-- A description in range has its kind's code, and a PROOF has no edition (R5). -/
theorem proof_noEdition {d : PrintDescription} (hr : descriptionInRange d = true) (hk : d.kindCode = 2) :
    d.editionId = none := by
  simp [descriptionInRange, hk, printKindOf] at hr
  exact hr.2.1

theorem kindCode_inRange {d : PrintDescription} (hr : descriptionInRange d = true) :
    ∃ k, printKindOf d.kindCode = some k := by
  simp only [descriptionInRange, Bool.and_eq_true] at hr
  exact Option.isSome_iff_exists.mp hr.1.1.1.1.1.1

/-- The submission of a kind for an edition: its entry gives the set, and must be of its media type (R5). -/
def submitFor (tag : Nat) (kind : PrintKind) (d : PrintDescription) (id : Nat) (s : State) : State :=
  match s.findEdition id with
  | none => reply tag .notFound 0x10 .none s
  | some e =>
    if e.mediaType = d.mediaType then admitted tag kind d (some e.refSet) s else reply tag .range 0x10 .none s

section submit

variable {d : PrintDescription} {k : PrintKind} (tag : Nat)

theorem submit_full (hl : 8 ≤ s.queue.prints.length) : submitRequest tag d s = reply tag .full 0x10 .none s :=
  if_pos hl

theorem submit_range (hl : s.queue.prints.length < 8) (hr : descriptionInRange d = false) :
    submitRequest tag d s = reply tag .range 0x10 .none s := by
  have hl : ¬Config.queueRoom ≤ s.queue.prints.length := Nat.not_le.mpr hl
  simp only [submitRequest, hl, hr, if_false, Bool.not_false, if_true]

/-- With room and in range, a print without an edition is admitted as it is described (R5). -/
theorem submit_alone (hl : s.queue.prints.length < 8) (hr : descriptionInRange d = true)
    (hk : printKindOf d.kindCode = some k) (hi : d.editionId = none) :
    submitRequest tag d s = admitted tag k d d.refSet s := by
  have hl : ¬Config.queueRoom ≤ s.queue.prints.length := Nat.not_le.mpr hl
  simp only [submitRequest, hl, hr, hk, hi, if_false, Bool.not_true, Bool.false_eq_true]
  rfl

/-- With room and in range, a print of an edition is judged by its entry (R5). -/
theorem submit_edition (hl : s.queue.prints.length < 8) (hr : descriptionInRange d = true)
    (hk : printKindOf d.kindCode = some k) {id : Nat} (hi : d.editionId = some id) :
    submitRequest tag d s = submitFor tag k d id s := by
  have hl : ¬Config.queueRoom ≤ s.queue.prints.length := Nat.not_le.mpr hl
  simp only [submitRequest, hl, hr, hk, hi, if_false, Bool.not_true, Bool.false_eq_true]
  rfl

end submit

/-- Settles O26: each request's tests in their order, and the print's state where one is named. -/
theorem printRequests : Obligations.PrintRequests := by
  unfold Obligations.PrintRequests
  intro tag s
  dsimp only
  simp only [exec_printSubmit, exec_printRelease, exec_printCancel, Host.Outcome.next.injEq]
  refine ⟨fun d hl hr => ⟨fun hk => ?_, fun id e hi he hm => ⟨fun hk => ?_, fun hk => ?_⟩, fun id e hi he hm => ?_,
    fun id hi he => ?_⟩, fun d hl => submit_full tag hl, fun d hl hr => submit_range tag hl hr, fun h p hp hs => ?_,
    fun h p hp hs => ?_, fun h p hp hs => ?_, fun h p hp hs => ?_, fun h p hp hs => ?_, fun h hp => ⟨?_, ?_⟩⟩
  · exact submit_alone tag hl hr (by rw [hk]; rfl) (proof_noEdition hr hk)
  · rw [submit_edition tag hl hr (by rw [hk]; rfl) hi, submitFor, he]
    exact if_pos hm
  · rw [submit_edition tag hl hr (by rw [hk]; rfl) hi, submitFor, he]
    exact if_pos hm
  · obtain ⟨k, hk⟩ := kindCode_inRange hr
    rw [submit_edition tag hl hr hk hi, submitFor, he]
    exact if_neg hm
  · obtain ⟨k, hk⟩ := kindCode_inRange hr
    rw [submit_edition tag hl hr hk hi, submitFor, he]
  · simp only [releaseRequest, hp, hs, if_true]
  · simp only [releaseRequest, hp, hs, if_false]
  · rcases hs with hs | hs <;> simp only [cancelRequest, hp, hs]
  · simp only [cancelRequest, hp, hs]
  · rcases hs with hs | hs | hs <;> simp only [cancelRequest, hp, hs]
  · simp only [releaseRequest, hp]
  · simp only [cancelRequest, hp]

/-! ## The handle allocator -/

/-- The search of R4 gives the first handle that no record holds, or the one after all that it visits. -/
theorem freeHandle_first (used : List Nat) (n last : Nat) :
    ∃ k ≤ n, freeHandle used n last = nextHandle^[k + 1] last ∧ ∀ i < k, nextHandle^[i + 1] last ∈ used := by
  induction n generalizing last with
  | zero => exact ⟨0, Nat.le_refl _, rfl, fun i hi => absurd hi (Nat.not_lt_zero i)⟩
  | succ n ih =>
    unfold freeHandle
    split
    · rename_i hu
      obtain ⟨k, hk, he, hb⟩ := ih (nextHandle last)
      refine ⟨k + 1, Nat.succ_le_succ hk, he, fun i hi => ?_⟩
      cases i with
      | zero => simpa using hu
      | succ i => exact hb i (by omega)
    · exact ⟨0, Nat.zero_le _, rfl, fun i hi => absurd hi (Nat.not_lt_zero i)⟩

/-- Nine handles in a row are not all held by eight records. -/
theorem nine_handles_not_used {used : List Nat} (hl : used.length ≤ 8) (last : Nat) :
    ∃ i < 9, nextHandle^[i + 1] last ∉ used := by
  by_contra h
  push Not at h
  have hs : ((List.range 9).map fun k => nextHandle^[k] (nextHandle last)) ⊆ used := fun x hx => by
    obtain ⟨i, hi, rfl⟩ := List.mem_map.mp hx
    exact h i (List.mem_range.mp hi)
  have := ((nextHandle_nodup last).subperm hs).length_le
  simp at this
  omega

/-- Settles O55: the search visits the handles in order from the last one, and eight records cannot hold nine. -/
theorem freshHandle : Obligations.FreshHandle := by
  unfold Obligations.FreshHandle
  intro used last hl hu
  obtain ⟨k, hk, he, hb⟩ := freeHandle_first used 9 last
  have hn : 1 ≤ nextHandle last ∧ nextHandle last ≤ 255 := by
    unfold nextHandle
    split <;> omega
  have hv : nextHandle^[k + 1] last = (nextHandle last - 1 + k) % 255 + 1 := nextHandle_iterate k hn.1 hn.2
  have hk9 : k ≠ 9 := fun h9 => by
    obtain ⟨i, hi, hf⟩ := nine_handles_not_used hl last
    exact hf (hb i (h9 ▸ hi))
  exact ⟨by rw [he, hv]; omega, by rw [he, hv]; omega, freeHandle_fresh hl last, k, by omega, he, hb⟩

/-! ## The cost record of a close -/

theorem leBytes_length (n v : Nat) : (leBytes n v).length = n := by
  induction n generalizing v with
  | zero => rfl
  | succ n ih => rw [leBytes, List.length_cons, ih]

theorem channelBytes_length (v : PerChan Nat) : (channelBytes v).length = 96 := by
  simp [channelBytes, List.length_flatMap, leBytes_length]

/-- The 241 bytes of a record (section 10.8). -/
theorem costRecord_length (r : CostRecord) : r.bytes.length = 241 := by
  -- `delta`, since an equation for a body of this length takes seconds to make
  delta CostRecord.bytes
  simp only [List.length_append, leBytes_length, channelBytes_length]

/-- A close appends its record, and nothing after it writes the log or the counter (R20, R157). -/
theorem closePrint_cost {h : Nat} {p : PrintRecord} (hp : s.findPrint h = some p) (cutNone : Bool) :
    let r := costRecordOf p (p.outcome.getD .spoiled) (nextSequence s.cost.sequence) cutNone
    (closePrint h cutNone s).cost.log = s.cost.log ++ [r] ∧ (closePrint h cutNone s).cost.sequence = r.sequence := by
  have hc : ∀ u : State, (releaseChecks u).cost.log = u.cost.log ∧ (releaseChecks u).cost.sequence = u.cost.sequence :=
    fun u => by
      obtain ⟨_, _, _, _, _, e⟩ := (releaseChecks_rechecked u).frame
      rw [e]
      exact ⟨rfl, rfl⟩
  have hs : (if p.inFlight = true then s.countSpoil p else s).cost = s.cost := by
    split
    · exact State.mapEditionOf_cost ..
    · rfl
  rw [closePrint, hp]
  dsimp only
  generalize hu : State.dropPrint _ h = u
  have hk : u.cost.log = s.cost.log ++ [costRecordOf p (p.outcome.getD .spoiled) (nextSequence s.cost.sequence) cutNone] ∧
      u.cost.sequence = nextSequence s.cost.sequence := by
    subst hu
    rw [State.dropPrint_cost, State.mapEditionOf_cost, appendRecord, hs]
    exact ⟨rfl, rfl⟩
  have hr : ∀ b, (raise b (releaseChecks u)).cost = (releaseChecks u).cost := fun b => by
    obtain ⟨k, hb⟩ := raise_control b (releaseChecks u)
    rw [hb]
  rw [hr, (hc u).1, (hc u).2]
  exact hk

/-- Settles O58: the wrap of the counter, the widths of the record's fields, and the record that a close appends. -/
theorem sequenceRule : Obligations.SequenceRule := by
  unfold Obligations.SequenceRule
  refine ⟨fun n hn => if_neg (Nat.ne_of_lt hn), rfl, costRecord_length, fun h p cutNone s hp => ?_⟩
  obtain ⟨hl, hs⟩ := closePrint_cost hp cutNone
  exact ⟨_, hl, rfl, hs, rfl, rfl, rfl, rfl, rfl⟩

end Sys2Proof.Machine
end

section
/-! PROOFS. The events of the transport, and the frames of the engine for the ACTIVE print with what they leave. -/

namespace Sys2Proof.Machine

open Sys2Proof

variable {s t : State}

/-! ## The events of the transport -/

theorem releaseChecks_media (s : State) : (releaseChecks s).media = s.media := by
  obtain ⟨_, _, _, _, _, e⟩ := (releaseChecks_rechecked s).frame
  rw [e]

/-- A deadline that has passed takes no time (log entry 4). -/
theorem timeTo_past {d : Nat} (h : d ≤ s.clock.now) : timeTo d s = s := by
  rw [timeTo, Nat.max_eq_left h]

/-- H at the end of a leg, and the release checks that follow (R78, step 3). -/
def arrived (m : Movement) (s : State) : State :=
  releaseChecks { s with media := { s.media with movement := none, roll := { s.media.roll with head := m.target } } }

theorem arrived_head (m : Movement) (s : State) : (arrived m s).media.roll.head = m.target := by
  rw [arrived, releaseChecks_media]

theorem exec_driverArrival {m : Movement} (h : s.media.movement = some m) : exec .driverArrival s =
    .next (finish (advance (if (arrived m s).media.rollState = .ended ∧
      (arrived m s).media.roll.head = (arrived m s).media.roll.tail + 1800 then tailOut (arrived m s) else arrived m s))) := by
  have ha : exec .driverArrival s = .next (arrival s) := rfl
  rw [ha, arrival, h, arrive, h]
  rfl

theorem exec_movementTimeout {m : Movement} (h : s.media.movement = some m) (hd : m.deadline ≤ s.clock.now) :
    exec .movementTimeout s = .next (finish (faultTransport .timeout s)) := by
  have ha : exec .movementTimeout s = .next (movementExpires s) := rfl
  rw [ha, movementExpires, h]
  dsimp only
  rw [timeTo_past hd]

theorem exec_flushWaitExpiry {d : Nat} (h : s.queue.flushDeadline = some d) (hd : d ≤ s.clock.now) :
    exec .flushWaitExpiry s = .next (finish { s with queue := { s.queue with
      flushDeadline := none, flushDue := s.queue.flushDue || s.awaitsTransport } }) := by
  have ha : exec .flushWaitExpiry s = .next (flushExpires s) := rfl
  rw [ha, flushExpires, h]
  dsimp only
  rw [timeTo_past hd]

/-- Settles O45: each event's function, with its timer or its movement and without. -/
theorem transportEvents : Obligations.TransportEvents := by
  unfold Obligations.TransportEvents
  intro s
  refine ⟨fun m hm => ⟨⟨exec_driverArrival hm, arrived_head m s⟩, exec_movementTimeout hm⟩, fun hm => ⟨?_, ?_⟩,
    fun hf => ?_, fun hf => ?_, fun level hl => ?_, fun hr => ?_, rfl, fun d hd => exec_flushWaitExpiry hd, fun hd => ?_⟩
  · have ha : exec .driverArrival s = .next (arrival s) := rfl
    rw [ha, arrival, hm]
    rfl
  · have ha : exec .movementTimeout s = .next (movementExpires s) := rfl
    rw [ha, movementExpires, hm]
  · exact congrArg Host.Outcome.next (if_neg hf)
  · exact congrArg Host.Outcome.next (if_pos hf)
  · exact congrArg Host.Outcome.next (if_neg hl)
  · exact congrArg Host.Outcome.next (if_pos hr)
  · have ha : exec .flushWaitExpiry s = .next (flushExpires s) := rfl
    rw [ha, flushExpires, hd]

/-! ## The engine's frames for the ACTIVE print -/

theorem hearAndRefresh_heard (h : s.engine.lost = false) (kind : Nat) : hearAndRefresh kind s = silenceRefresh s := by
  simp [hearAndRefresh, hear, h]

section frames

variable {p : PrintRecord} (tag : Nat)

/-- A frame that names the ACTIVE print of a PRINTING engine meets none of the refusals (R168, R169). -/
theorem printOf_ok (hp : s.engine.state = .printing) (hs : s.engine.stopped ≠ some p.handle) (ha : s.active = some p) :
    printOf p.handle (silenceRefresh s) = .ok p := by
  have hp' : (silenceRefresh s).engine.state = .printing := hp
  have hs' : (silenceRefresh s).engine.stopped ≠ some p.handle := hs
  have ha' : (silenceRefresh s).active = some p := ha
  simp [printOf, hp', hs', ha']

variable (hl : s.engine.lost = false) (ho : printOf p.handle (silenceRefresh s) = .ok p)

include hl ho

theorem swathFrame_new {report : SwathReport} (hr : report.handle = p.handle)
    (hn : s.meter.lastSequence ≠ some report.sequence) :
    swathFrame tag report s = answerTaken tag (meterSwath p report (silenceRefresh s)) := by
  have hn' : (silenceRefresh s).meter.lastSequence ≠ some report.sequence := hn
  simp only [swathFrame, hearAndRefresh_heard hl, hr, ho, hn', if_false]

theorem swathFrame_repeat {report : SwathReport} (hr : report.handle = p.handle)
    (hn : s.meter.lastSequence = some report.sequence) :
    swathFrame tag report s = answerTaken tag (silenceRefresh s) := by
  have hn' : (silenceRefresh s).meter.lastSequence = some report.sequence := hn
  simp only [swathFrame, hearAndRefresh_heard hl, hr, ho, hn', if_true]

theorem feedAskFrame_begins (d : Nat) (hf : s.engine.feedAsk = none) :
    feedAskFrame tag p.handle d s = finish (beginEngineFeed tag p.handle d p (silenceRefresh s)) := by
  have hf' : (silenceRefresh s).engine.feedAsk = none := hf
  simp only [feedAskFrame, hearAndRefresh_heard hl, ho, hf', Option.isSome_none, Bool.false_eq_true, if_false]

theorem feedAskFrame_busy (d : Nat) (hf : s.engine.feedAsk ≠ none) :
    feedAskFrame tag p.handle d s = refuseFrame tag .busy (silenceRefresh s) := by
  have hf' : (silenceRefresh s).engine.feedAsk.isSome = true := Option.isSome_iff_ne_none.mpr hf
  simp only [feedAskFrame, hearAndRefresh_heard hl, ho, hf', if_true]

theorem endingFrame_effect (kind : Nat) (effect : PrintRecord → State → State) :
    endingFrame tag p.handle effect (hearAndRefresh kind s) = answerTaken tag (effect p (silenceRefresh s)) := by
  simp only [endingFrame, hearAndRefresh_heard hl, ho]

theorem printFailFrame_effect {cause : Nat} (hc : cause < 5) :
    printFailFrame tag p.handle cause s = answerTaken tag (failPrint cause p (silenceRefresh s)) := by
  rw [printFailFrame, if_neg (Nat.not_le.mpr hc)]
  exact endingFrame_effect tag hl ho _ _

omit ho in
theorem printFailFrame_malformed (h : Nat) {cause : Nat} (hc : 5 ≤ cause) :
    printFailFrame tag h cause s = refuseFrame tag .malformed (silenceRefresh s) := by
  rw [printFailFrame, if_pos hc, hearAndRefresh_heard hl]

end frames

/-! ## What becoming ACTIVE leaves -/

theorem becomeActive_queue (p : PrintRecord) (s : State) : (becomeActive p s).queue =
    ((s.mapPrint p.handle fun q => { q with state := .active, lastSwath := some s.clock.now }).unready p.handle).queue := by
  simp [becomeActive, silenceStart]

/-- What a PRINT_GO leaves (R14, R201). -/
theorem becomeActive_leaves {p : PrintRecord} (hp : s.findPrint p.handle = some p) :
    let t := becomeActive p s
    t.findPrint p.handle = some { p with state := .active, lastSwath := some s.clock.now } ∧
    t.store.openPrint = some ⟨p.handle, p.jobTag, p.kind, p.editionId, p.reservation, p.snapshotAtClose⟩ ∧
    t.media.hold = .engine p.handle ∧ t.media.state = .heldByEngine ∧ t.engine.state = .printing ∧
    t.engine.stopped = none ∧ t.queue.readyOrder = s.queue.readyOrder.filter (fun h => h != p.handle) ∧
    t.engine.sent = s.engine.sent ++
      [.printGo (s.engine.readyTag.getD 0) p.handle p.imageWidth p.spanLength p.mediaType] := by
  have hq := becomeActive_queue p s
  refine ⟨?_, ?_, ?_, ?_, ?_, ?_, congrArg PrintQueue.readyOrder hq, ?_⟩
  · refine (findPrint_queue (congrArg PrintQueue.prints hq) _).trans (findPrint_mapPrint (s := s)
      (fun q => { q with state := .active, lastSwath := some s.clock.now }) (fun _ => rfl) hp)
  all_goals simp [becomeActive, silenceStart, openMarkerOf, State.tell]

/-! ## What leaving ACTIVE leaves -/

/-- The outstanding ask goes, and with it only the engine's frames change (R169). -/
theorem dropFeedAsk_frame (s : State) :
    ∃ l, dropFeedAsk s = { s with engine := { s.engine with feedAsk := none, sent := l } } := by
  unfold dropFeedAsk
  split
  · rename_i h
    exact ⟨s.engine.sent, by rw [← h]⟩
  · exact ⟨_, rfl⟩

theorem saveRoll_frame (s : State) : ∃ r, saveRoll s = { s with store := { s.store with roll := r } } := by
  unfold saveRoll
  split <;> exact ⟨_, rfl⟩

/-- The state in which the release checks of a print that leaves ACTIVE begin: the record changed and without a
reservation, the engine idle, the marker cleared, the hold ended, no feed ask, no remembered sequence, and the flush wait
running (R17, R201). -/
structure Left (h : Nat) (f : PrintRecord → PrintRecord) (s u : State) : Prop where
  engine : ∃ l, u.engine = { s.engine with state := .idle, silence := none, feedAsk := none, sent := l }
  openPrint : u.store.openPrint = none
  media : u.media = releaseHold s.media
  sequence : u.meter.lastSequence = none
  flush : u.queue.flushDeadline = some (s.clock.now + 10000)
  prints : u.queue.prints = (s.mapPrint h fun p => { f p with reservation := noReservation }).queue.prints
  registry : u.registry = s.registry

theorem leaveActive_leaves (h : Nat) (f : PrintRecord → PrintRecord) (news : PrintNews) (s : State) :
    ∃ u, Left h f s u ∧ Rechecked u (leaveActive h f news s) := by
  refine ⟨startFlushWait (inkPrintEnds (saveRoll (saveInk (forgetSequence (dropFeedAsk (endActive h f s)))))), ?_,
    (printNotice_rechecked _ _ _).trans (releaseChecks_rechecked _)⟩
  obtain ⟨l, hl⟩ := dropFeedAsk_frame (endActive h f s)
  obtain ⟨r, hr⟩ := saveRoll_frame (saveInk (forgetSequence (dropFeedAsk (endActive h f s))))
  obtain ⟨i, m, k, hi⟩ := inkPrintEnds_frame (saveRoll (saveInk (forgetSequence (dropFeedAsk (endActive h f s)))))
  rw [hi, hr, hl]
  constructor
  case engine => exact ⟨l, by simp [startFlushWait, saveInk, forgetSequence, endActive]⟩
  all_goals simp [startFlushWait, saveInk, forgetSequence, endActive, Config.flushWait]

section left

variable {h : Nat} {f : PrintRecord → PrintRecord} {u : State}

/-- What the end of an ACTIVE print leaves of the engine, the store, the transport, the meter and the queue (R17). -/
theorem Left.fields (hl : Left h f s u) (hk : Rechecked u t) :
    t.engine.state = .idle ∧ t.engine.silence = none ∧ t.engine.feedAsk = none ∧ t.store.openPrint = none ∧
      t.media.hold = .none ∧ t.meter.lastSequence = none ∧ t.queue.flushDeadline = some (s.clock.now + 10000) := by
  obtain ⟨_, _, _, _, _, rfl⟩ := hk.frame
  obtain ⟨l, he⟩ := hl.engine
  exact ⟨by rw [he], by rw [he], by rw [he], hl.openPrint, by rw [hl.media]; rfl, hl.sequence, hl.flush⟩

/-- The record of the print is the one that its end gives it. -/
theorem Left.print {p : PrintRecord} (hl : Left h f s u) (hk : Rechecked u t) (hp : s.findPrint h = some p)
    (hf : ∀ q, (f q).handle = q.handle) (hw : (f p).state ≠ .waiting) :
    t.findPrint h = some { f p with reservation := Vector.replicate 12 0 } :=
  hk.prints h _ ((findPrint_queue hl.prints h).trans (findPrint_mapPrint _ hf hp)) hw

theorem Left.stations (hl : Left h f s u) (hk : Rechecked u t) : t.media.stations = s.media.stations := by
  obtain ⟨_, _, _, _, _, rfl⟩ := hk.frame
  rw [hl.media]
  rfl

theorem Left.stopped (hl : Left h f s u) (hk : Rechecked u t) : t.engine.stopped = s.engine.stopped := by
  obtain ⟨_, _, _, _, _, rfl⟩ := hk.frame
  obtain ⟨l, he⟩ := hl.engine
  rw [he]

/-- The entries stay but for what the releases that follow count in flight (R129). -/
theorem Left.edition (hl : Left h f s u) (hk : Rechecked u t) {id : Nat} {e : Edition} (he : s.findEdition id = some e) :
    ∃ d, t.findEdition id = some d ∧ SameButFlying e d := by
  refine hk.editions id e ?_
  rw [State.findEdition, hl.registry]
  exact he

end left

/-! ## A spoil -/

/-- What a spoil does before the print leaves ACTIVE: PRINT_STOP, the SCAN entry, and the edition's counts (R18). -/
def spoilBegun (p : PrintRecord) (stop : Bool) (s : State) : State :=
  (unlist (fun e => e.kind == .scan && e.handle == some p.handle) (if stop then printStop p.handle s else s)).countSpoil p

theorem spoilActive_eq (p : PrintRecord) (stop : Bool) (s : State) : spoilActive p stop s =
    leaveActive p.handle (fun q => { q with state := .travel, outcome := some .spoiled }) .travel (spoilBegun p stop s) :=
  rfl

/-- Before the print leaves ACTIVE a spoil changes the engine's frames and stopped handle, the station list and the
registry alone. -/
theorem spoilBegun_frame (p : PrintRecord) (stop : Bool) (s : State) : ∃ l n g, spoilBegun p stop s =
    { s with
      engine := { s.engine with sent := l, stopped := n }
      media := { s.media with
        stations := s.media.stations.filter fun e => !(e.kind == .scan && e.handle == some p.handle) }
      registry := g } ∧ (stop = true → n = some p.handle) := by
  unfold spoilBegun
  cases stop with
  | false =>
    obtain ⟨g, hg⟩ := mapEditionOf_registry (unlist (fun e => e.kind == .scan && e.handle == some p.handle) s) p
      (Edition.spoil p.kind)
    exact ⟨_, _, g, hg, fun h => absurd h nofun⟩
  | true =>
    obtain ⟨g, hg⟩ := mapEditionOf_registry
      (unlist (fun e => e.kind == .scan && e.handle == some p.handle) (printStop p.handle s)) p (Edition.spoil p.kind)
    exact ⟨_, _, g, hg, fun _ => rfl⟩

/-- The entry of a spoiled print counts the spoil (R139). -/
theorem spoilBegun_edition {p : PrintRecord} {id : Nat} {e : Edition} (hi : p.editionId = some id)
    (he : s.findEdition id = some e) (stop : Bool) :
    (spoilBegun p stop s).findEdition id = some (Edition.spoil p.kind e) := by
  have hu : (unlist (fun e => e.kind == .scan && e.handle == some p.handle)
      (if stop then printStop p.handle s else s)).findEdition id = some e := by
    cases stop <;> exact he
  have := findEdition_mapEditionOf hu p (Edition.spoil p.kind) fun e => mapInFlight_id e p.kind _
  rwa [if_pos hi] at this

/-- A spoil raises the spoiled count, and leaves every other but the in-flight one (R139). -/
theorem spoil_counts {k : PrintKind} {e d : Edition} (h : SameButFlying (e.spoil k) d) :
    d.spoiled = min 65535 (e.spoiled + 1) ∧ d.accepted = e.accepted ∧ d.rejected = e.rejected ∧
      d.warnRun = e.warnRun ∧ d.failRun = e.failRun ∧ d.state = e.state := by
  obtain ⟨_, _, rfl⟩ := h
  cases k <;> exact ⟨rfl, rfl, rfl, rfl, rfl, rfl⟩

/-- Settles O38: the frames by their tests, and the ends of an ACTIVE print by what `leaveActive` leaves. -/
theorem enginePrintFrames : Obligations.EnginePrintFrames := by
  unfold Obligations.EnginePrintFrames
  refine ⟨fun tag p s hl hp hs ha => ?_, fun p s hp => ⟨becomeActive_leaves hp, fun _ hr => ?_, fun _ hr => ?_,
    fun _ stop => ?_⟩⟩
  · have ho := printOf_ok hp hs ha
    refine ⟨fun r hr hn => congrArg Host.Outcome.next (swathFrame_new tag hl ho hr hn),
      fun r hr hn => congrArg Host.Outcome.next (swathFrame_repeat tag hl ho hr hn), fun d sp hsp hf => ?_,
      fun d hf => congrArg Host.Outcome.next (feedAskFrame_busy tag hl ho d hf), congrArg _ (endingFrame_effect tag hl ho _ _),
      fun cause hc => congrArg Host.Outcome.next (printFailFrame_effect tag hl ho hc),
      fun h cause hc => congrArg Host.Outcome.next (printFailFrame_malformed tag hl h hc)⟩
    have he : exec (.feedAsk tag p.handle d) s = .next (feedAskFrame tag p.handle d s) := rfl
    rw [he, feedAskFrame_begins tag hl ho d hf, beginEngineFeed, hsp]
    rfl
  · obtain ⟨u, hu, hk⟩ := leaveActive_leaves p.handle (fun q => { q with state := .travel }) .travel s
    rw [finishImaging, if_pos hr]
    exact ⟨hu.fields hk, hu.print hk hp (fun _ => rfl) nofun⟩
  · obtain ⟨u, hu, hk⟩ := leaveActive_leaves p.handle
      (fun q => { q with state := .separate, outcome := some .accepted }) (.separate (some .accepted) none) s
    rw [finishImaging, if_neg (by rw [hr]; decide)]
    exact ⟨hu.fields hk, hu.print hk hp (fun _ => rfl) nofun⟩
  · obtain ⟨u, hu, hk⟩ := leaveActive_leaves p.handle
      (fun q => { q with state := .travel, outcome := some .spoiled }) .travel (spoilBegun p stop s)
    obtain ⟨l, n, g, hb, -⟩ := spoilBegun_frame p stop s
    obtain ⟨v, hv, hj⟩ := leaveActive_leaves p.handle
      (fun q => { q with state := .travel, outcome := some .spoiled }) .travel (spoilBegun p true s)
    obtain ⟨l', n', g', hb', hn'⟩ := spoilBegun_frame p true s
    simp only [spoilActive_eq]
    refine ⟨?_, hu.print hk ?_ (fun _ => rfl) nofun, fun e he ⟨h1, h2⟩ => ?_, ?_, fun id e hi he => ?_⟩
    · have := hu.fields hk
      rw [hb] at this
      rwa [hb]
    · rw [hb]
      exact hp
    · rw [hu.stations hk, hb] at he
      simpa [h1, h2] using (List.mem_filter.mp he).2
    · rw [hv.stopped hj, hb']
      exact hn' rfl
    · obtain ⟨d, hd, hs⟩ := hu.edition hk (spoilBegun_edition hi he stop)
      exact ⟨d, hd, spoil_counts hs⟩

end Sys2Proof.Machine
end

section
/-! PROOFS. The release checks' reasons, the roll re-check and the returns to WAITING, and what a start commits. -/

namespace Sys2Proof.Machine

open Sys2Proof

variable {s t : State}

/-! ## The roll re-check -/

/-- The re-check's test of one print, in full (R71). -/
theorem recheckFits_iff (m : MediaTransport) (sum : Nat) (p : PrintRecord) : recheckFits m sum p = true ↔
    m.roll.mediaType = p.mediaType ∧ p.imageWidth + 10 ≤ m.roll.width ∧ m.rollState ≠ .ended ∧
      sum + (p.spanLength + 60) ≤ m.roll.tail := by
  simp only [recheckFits, rollSuits, Bool.and_eq_true, decide_eq_true_eq]
  unfold PrintRecord.rollNeed
  tauto

theorem recheckFailures_mem {m : MediaTransport} {sum h : Nat} {ps : List PrintRecord}
    (hm : h ∈ recheckFailures m sum ps) : h ∈ ps.map (·.handle) := by
  induction ps generalizing sum with
  | nil => exact hm
  | cons p ps ih =>
    unfold recheckFailures at hm
    split at hm
    · exact List.mem_cons_of_mem _ (ih hm)
    · rcases List.mem_cons.mp hm with rfl | hm
      · exact List.mem_cons_self ..
      · exact List.mem_cons_of_mem _ (ih hm)

/-- The roll that the prints which stay among the given ones ask for. -/
def stayingNeed (failed : List Nat) (ps : List PrintRecord) : Nat :=
  ((ps.filter fun q => decide (q.handle ∉ failed)).map PrintRecord.rollNeed).sum

theorem stayingNeed_cons (failed : List Nat) (p : PrintRecord) (ps : List PrintRecord) :
    stayingNeed failed (p :: ps) = (if p.handle ∈ failed then 0 else p.rollNeed) + stayingNeed failed ps := by
  unfold stayingNeed
  rw [List.filter_cons]
  by_cases h : p.handle ∈ failed <;> simp [h]

/-- A handle that none of the prints holds makes no difference. -/
theorem stayingNeed_other {failed : List Nat} {h : Nat} {ps : List PrintRecord} (hn : h ∉ ps.map (·.handle)) :
    stayingNeed (h :: failed) ps = stayingNeed failed ps := by
  unfold stayingNeed
  congr 2
  refine List.filter_congr fun q hq => ?_
  have hqh : q.handle ≠ h := fun e => hn (List.mem_map.mpr ⟨q, hq, e⟩)
  simp [hqh]

/-- A print stays exactly where it fits beyond those before it that stay (R71). -/
theorem recheckFailures_iff (m : MediaTransport) (base : Nat) (before : List PrintRecord) (p : PrintRecord)
    (rest : List PrintRecord) (hn : ((before ++ p :: rest).map (·.handle)).Nodup) :
    p.handle ∉ recheckFailures m base (before ++ p :: rest) ↔
      recheckFits m (base + stayingNeed (recheckFailures m base (before ++ p :: rest)) before) p = true := by
  induction before generalizing base with
  | nil =>
    have hp : p.handle ∉ rest.map (·.handle) := (List.nodup_cons.mp hn).1
    have hs : stayingNeed (recheckFailures m base (p :: rest)) [] = 0 := rfl
    rw [List.nil_append, hs, Nat.add_zero]
    unfold recheckFailures
    split
    · rename_i hf
      exact iff_of_true (fun h => hp (recheckFailures_mem h)) hf
    · rename_i hf
      exact iff_of_false (fun h => h (List.mem_cons_self ..)) hf
  | cons x before ih =>
    obtain ⟨hx, hn'⟩ := List.nodup_cons.mp (by simpa only [List.cons_append, List.map_cons] using hn)
    have hxp : p.handle ≠ x.handle := fun e => hx (List.mem_map.mpr ⟨p, by simp, e⟩)
    have hxb : x.handle ∉ before.map (·.handle) := fun h => hx (by
      rw [List.map_append]
      exact List.mem_append_left _ h)
    rw [List.cons_append, stayingNeed_cons]
    unfold recheckFailures
    split
    · have hxf : x.handle ∉ recheckFailures m (base + x.rollNeed) (before ++ p :: rest) := fun h =>
        hx (recheckFailures_mem h)
      rw [if_neg hxf, ← Nat.add_assoc]
      exact ih _ hn'
    · rw [if_pos (List.mem_cons_self ..), Nat.zero_add, stayingNeed_other hxb, List.mem_cons, not_or]
      exact (and_iff_right hxp).trans (ih _ hn')

/-! ## The returns to WAITING -/

/-- An abandoned start changes at most the print's span and snapshot in the queue (R15). -/
theorem abandonIfPositioned_queue (h : Nat) (s : State) : ∃ a : PrintRecord → PrintRecord,
    (abandonIfPositioned h s).queue = (s.mapPrint h a).queue ∧ ∀ x, (a x).handle = x.handle ∧ (a x).held = x.held := by
  unfold abandonIfPositioned
  split
  · exact ⟨fun p => { p with span := none, snapshot := none }, rfl, fun _ => ⟨rfl, rfl⟩⟩
  · exact ⟨id, by simp, fun _ => ⟨rfl, rfl⟩⟩

/-- What the record of a print that returns to WAITING becomes (R10). -/
structure GivenBack (reason : HeldReason) (p q : PrintRecord) : Prop where
  handle : q.handle = p.handle
  state : q.state = .waiting
  heldFor : q.heldFor = [reason]
  reservation : q.reservation = noReservation
  held : q.held = p.held

theorem giveBack_queue (p : PrintRecord) (reason : HeldReason) (s : State) : ∃ f : PrintRecord → PrintRecord,
    (giveBack p reason s).queue = ((s.mapPrint p.handle f).unready p.handle).queue ∧ ∀ x, GivenBack reason x (f x) := by
  obtain ⟨a, ha, hk⟩ := abandonIfPositioned_queue p.handle s
  refine ⟨fun x => { a x with state := .waiting, reservation := noReservation, heldFor := [reason] }, ?_,
    fun x => ⟨(hk x).1, rfl, rfl, rfl, (hk x).2⟩⟩
  simp only [giveBack, State.unready_queue, State.mapPrint_queue, State.lowerInFlight, State.mapEditionOf_queue, ha,
    List.map_map]
  congr 1
  refine List.map_congr_left fun x _ => ?_
  by_cases hx : x.handle = p.handle <;> simp [hx, (hk x).1]

theorem returnToWaiting_ready {h : Nat} {p : PrintRecord} (hp : s.findPrint h = some p) (hr : p.state = .ready)
    (reason : HeldReason) : ∃ u q,
      returnToWaiting h reason s = releaseChecks (earlyFullCheck (printNotice h (.waiting [reason]) u)) ∧
      u.findPrint h = some q ∧ q.state = .waiting ∧ q.heldFor = [reason] ∧ (∀ c : Chan, q.reservation[c] = 0) ∧
      q.held = p.held ∧ u.queue.readyOrder = s.queue.readyOrder.filter (fun n => n != h) ∧
      u.queue.prints.map (·.handle) = s.queue.prints.map (·.handle) ∧ ∀ n, n ≠ h → u.findPrint n = s.findPrint n := by
  have hh := findPrint_handle hp
  subst hh
  obtain ⟨f, hq, hf⟩ := giveBack_queue p reason s
  have hps := congrArg PrintQueue.prints hq
  refine ⟨giveBack p reason s, f p, ?_, ?_, (hf p).state, (hf p).heldFor, fun c => ?_, (hf p).held,
    congrArg PrintQueue.readyOrder hq, ?_, fun n hn => ?_⟩
  · simp only [returnToWaiting, hp, hr, if_true]
  · exact (findPrint_queue hps _).trans (findPrint_mapPrint f (fun x => (hf x).handle) hp)
  · simp [(hf p).reservation, noReservation]
  · rw [hps, State.unready_queue, State.mapPrint_queue, List.map_map]
    refine List.map_congr_left fun x _ => ?_
    dsimp only [Function.comp_apply]
    split
    · exact (hf x).handle
    · rfl
  · exact (findPrint_queue hps _).trans (findPrint_mapPrint_ne f (fun x => (hf x).handle) hn)

/-! ## A start -/

theorem mem_insertStation_iff {e x : Station} {l : List Station} : x ∈ insertStation e l ↔ x = e ∨ x ∈ l := by
  refine ⟨mem_insertStation, fun h => ?_⟩
  induction l with
  | nil => simpa [insertStation] using h
  | cons y l ih =>
    unfold insertStation
    split
    · exact List.mem_cons.mpr h
    · rcases h with h | h
      · exact List.mem_cons_of_mem _ (ih (.inl h))
      · rcases List.mem_cons.mp h with h | h
        · exact h ▸ List.mem_cons_self ..
        · exact List.mem_cons_of_mem _ (ih (.inr h))

/-- Entries that are listed one after another change the station list alone. -/
theorem listStations_eq (es : List Station) (s : State) : es.foldl (fun t e => listStation e t) s =
    { s with media := { s.media with stations := es.foldl (fun l e => insertStation e l) s.media.stations } } := by
  induction es generalizing s with
  | nil => rfl
  | cons e es ih => rw [List.foldl_cons, ih]; rfl

theorem mem_foldl_insertStation {es l : List Station} {x : Station} :
    x ∈ es.foldl (fun l e => insertStation e l) l ↔ x ∈ l ∨ x ∈ es := by
  induction es generalizing l with
  | nil => simp
  | cons e es ih =>
    rw [List.foldl_cons, ih, mem_insertStation_iff, List.mem_cons]
    tauto

/-- A start's writes before its notices: the record, the hold and A, the list, and the flush (R12, R13). -/
def startWritten (p : PrintRecord) (sp : Span) (s : State) : State :=
  { s with
    queue := { s.queue with
      prints := s.queue.prints.map fun q =>
        if q.handle == p.handle then { q with span := some sp, snapshot := some (snapshotFor s p) } else q
      flushDue := false }
    media := { s.media with
      hold := .positioning p.handle, roll := { s.media.roll with alloc := sp.stop + 60 }
      stations := (startEntries s p sp).foldl (fun l e => insertStation e l)
        (s.media.stations.filter fun e => !(coveredBy sp e || replacedBy sp e)) } }

/-- A start feeds to its span's start from a state that the release checks, the roll-low flag and the control link alone
set apart from what it has written (R12, R13). -/
theorem commitStart_eq (p : PrintRecord) (sp : Span) (s : State) : ∃ t f k,
    commitStart p sp s = beginFeed .positioning sp.start t ∧
    Rechecked { startWritten p sp s with
      media := { (startWritten p sp s).media with lowFlag := f }, control := k } t := by
  unfold commitStart
  simp only [listStations_eq]
  generalize hu : rollLowCheck _ = u
  obtain ⟨k, f, hk⟩ := rollLowCheck_frame (startWritten p sp s)
  have hw : u = { startWritten p sp s with
      media := { (startWritten p sp s).media with lowFlag := f }, control := k } := by
    rw [← hu, ← hk]
    rfl
  obtain ⟨k1, h1⟩ := reportDropped_control .covered (s.media.stations.filter (coveredBy sp)) u
  obtain ⟨k2, h2⟩ := reportDropped_control .replaced (s.media.stations.filter (replacedBy sp)) { u with control := k1 }
  rw [h1, h2, hw]
  exact ⟨_, f, k2, rfl, (printNotice_rechecked _ _ _).trans (releaseChecks_rechecked _)⟩

theorem readyPrints_find {p : PrintRecord} {rest : List PrintRecord} (h : s.readyPrints = p :: rest) :
    s.findPrint p.handle = some p := by
  have hp : p ∈ s.readyPrints := by rw [h]; exact List.mem_cons_self ..
  obtain ⟨n, -, hn⟩ := List.mem_filterMap.mp hp
  rw [findPrint_handle hn]
  exact hn

/-- The entries that a start leaves out: the server cuts that its span covers or its trailing cut replaces. -/
theorem start_drops_iff (sp : Span) (e : Station) : (coveredBy sp e || replacedBy sp e) = true ↔
    e.kind = .cutServer ∧ (sp.start ≤ e.position ∧ e.position ≤ sp.stop ∨ e.position = sp.stop + 30) := by
  simp only [coveredBy, replacedBy, Bool.or_eq_true, Bool.and_eq_true, beq_iff_eq, decide_eq_true_eq]
  tauto

/-- The entries that a start lists (R13, R75). -/
theorem mem_startEntries (s : State) (p : PrintRecord) (sp : Span) (e : Station) : e ∈ startEntries s p sp ↔
    ((s.media.roll.lastCut < sp.start - 30 ∧ s.cutListed (sp.start - 30) = false) ∧
      e = ⟨.cutLead, sp.start - 30, sp.start - 30 + 1800, some p.handle, none⟩) ∨
    (p.refSet.isSome = true ∧ e = ⟨.scan, sp.stop - 125, sp.stop - 125 + 950, some p.handle, none⟩) ∨
    e = ⟨.cutTrail, sp.stop + 30, sp.stop + 1830, some p.handle, none⟩ := by
  simp only [startEntries, List.mem_append, or_assoc]
  refine or_congr ?_ (or_congr ?_ ?_)
  · by_cases h : s.media.roll.lastCut < sp.start - 30 ∧ s.cutListed (sp.start - 30) = false
    · simp [h, stationAt, triggerOf, Config.cutterOffset]
    · simp [h]
  · by_cases h : p.refSet.isSome = true <;> simp [h, stationAt, triggerOf, Config.spectroOffset]
  · simp [stationAt, triggerOf, Config.cutterOffset]

/-- What a start leaves, before its feed (R12, R13). -/
theorem commitStart_leaves {p : PrintRecord} (hp : s.findPrint p.handle = some p) (hr : p.state = .ready) (sp : Span) :
    ∃ t q, commitStart p sp s = beginFeed .positioning sp.start t ∧ t.findPrint p.handle = some q ∧
      q = { p with span := some sp, snapshot := q.snapshot } ∧ q.snapshot = some (snapshotFor s p) ∧
      t.media.roll = { s.media.roll with alloc := sp.stop + 60 } ∧ t.media.hold = .positioning p.handle ∧
      t.queue.flushDue = false ∧ ∀ e, e ∈ t.media.stations ↔
        (e ∈ s.media.stations ∧ ¬(coveredBy sp e || replacedBy sp e) = true) ∨ e ∈ startEntries s p sp := by
  obtain ⟨t, f, k, he, hk⟩ := commitStart_eq p sp s
  have hq : (startWritten p sp s).findPrint p.handle =
      some { p with span := some sp, snapshot := some (snapshotFor s p) } :=
    findPrint_mapPrint (s := s) (fun q => { q with span := some sp, snapshot := some (snapshotFor s p) })
      (fun _ => rfl) hp
  refine ⟨t, _, he, hk.prints _ _ hq (by simp [hr]), rfl, rfl, ?_⟩
  obtain ⟨_, _, _, _, _, rfl⟩ := hk.frame
  refine ⟨rfl, rfl, rfl, fun e => ?_⟩
  refine mem_foldl_insertStation.trans (or_congr_left ?_)
  rw [List.mem_filter]
  simp

section startStep

variable {p : PrintRecord} {rest : List PrintRecord} (hs : s.startPossible = true) (hp : s.readyPrints = p :: rest)

include hs hp

/-- A start is tried on the oldest READY print (R11, R12). -/
theorem startStep_oldest : startStep s =
    if (spanFor s p).stop + 30 ≤ s.media.roll.tail then
      (if startHasRoom s p (spanFor s p) then some (commitStart p (spanFor s p) s) else none)
    else some (returnToWaiting p.handle .media s) := by
  simp [startStep, hs, hp, spanFits]

end startStep

/-! ## The reasons -/

section reasons

variable (s : State) (p : PrintRecord)

theorem mem_heldReasons (r : HeldReason) : r ∈ s.heldReasons p ↔
    (p.held = true ∧ r = .heldFlag) ∨ (s.media.rollState = .unverified ∧ r = .rollUnverified) ∨
    ((s.media.rollState ≠ .unverified ∧ s.mediaFits p = false) ∧ r = .media) ∨
    (s.editionFits p = false ∧ r = .edition) ∨ (∃ c, s.inkFits p c = false ∧ r = .ink c) ∨
    (s.costFits = false ∧ r = .costSpace) := by
  have listed (b : Bool) (x : HeldReason) : r ∈ (if b = true then [] else [x]) ↔ b = false ∧ r = x := by
    cases b <;> simp
  have roll : r ∈ (if s.media.rollState = .unverified then [HeldReason.rollUnverified] else if s.mediaFits p = true then []
      else [.media]) ↔ (s.media.rollState = .unverified ∧ r = .rollUnverified) ∨
        ((s.media.rollState ≠ .unverified ∧ s.mediaFits p = false) ∧ r = .media) := by
    by_cases h : s.media.rollState = .unverified
    · simp [h]
    · simp [h, listed]
  have held : r ∈ (if p.held = true then [HeldReason.heldFlag] else []) ↔ p.held = true ∧ r = .heldFlag := by
    cases p.held <;> simp
  have ink : r ∈ (channelList.filter fun c => !s.inkFits p c).map HeldReason.ink ↔
      ∃ c, s.inkFits p c = false ∧ r = .ink c := by
    simp only [List.mem_map, List.mem_filter, mem_channelList, true_and, Bool.not_eq_true', eq_comm (a := r)]
  simp only [State.heldReasons, List.mem_append, listed, roll, held, ink, or_assoc]

theorem mediaFits_iff : s.mediaFits p = true ↔ s.media.rollState = .verified ∧ s.media.roll.mediaType = p.mediaType ∧
    p.imageWidth + 10 ≤ s.media.roll.width ∧
    max s.media.roll.alloc s.media.roll.head + 30 + (s.claimedRoll + (p.spanLength + 60)) ≤ s.media.roll.tail := by
  simp only [State.mediaFits, rollSuits, Bool.and_eq_true, decide_eq_true_eq, and_assoc]
  rfl

/-- A print of an edition has a place where its entry is OPEN and has room for its kind (R130). -/
theorem editionFits_iff (hn : p.kind ≠ .proof) : s.editionFits p = true ↔
    ∃ id e, p.editionId = some id ∧ s.findEdition id = some e ∧
      (e.state = .opened ∧ (e.load p.kind).1 < (e.load p.kind).2) := by
  unfold State.editionFits
  split
  · rename_i hk
    exact absurd hk hn
  · rename_i id hi _
    cases he : s.findEdition id <;> simp [hi, he, Edition.room]
  · rename_i hi _
    simp [hi]

theorem editionFits_proof (hk : p.kind = .proof) : s.editionFits p = true := by simp [State.editionFits, hk]

theorem editionFits_false : s.editionFits p = false ↔ p.kind ≠ .proof ∧
    ∀ id e, p.editionId = some id → s.findEdition id = some e →
      ¬(e.state = .opened ∧ (e.load p.kind).1 < (e.load p.kind).2) := by
  by_cases hk : p.kind = .proof
  · simp [editionFits_proof s p hk, hk]
  · rw [← Bool.not_eq_true, editionFits_iff s p hk]
    simp only [hk, not_exists, not_and, ne_eq, not_false_eq_true, true_and]

theorem inkFits_false (c : Chan) : s.inkFits p c = false ↔
    ceilDiv (p.estimates[c] * (100 + s.control.inkMargin)) 100 ≠ 0 ∧
      s.usable c < s.committed c + ceilDiv (p.estimates[c] * (100 + s.control.inkMargin)) 100 := by
  simp only [State.inkFits, Bool.or_eq_false_iff, decide_eq_false_iff_not, Nat.not_le]
  rfl

theorem costFits_false : s.costFits = false ↔ 128 ≤ s.cost.log.length + s.liveCount := by
  simp [State.costFits, Config.logRoom]

end reasons

/-- The record of a print as it is released (R7). -/
def released (s : State) (p q : PrintRecord) : PrintRecord :=
  { q with state := .ready, heldFor := [], reservation := Vector.ofFn fun c : Chan => s.wanted p c }

theorem releasePrint_queue (p : PrintRecord) (s : State) : (releasePrint p s).queue =
    { (s.mapPrint p.handle (released s p)).queue with readyOrder := s.queue.readyOrder ++ [p.handle] } := by
  unfold releasePrint
  rw [(earlyFullCheck_aside _).queue, (printNotice_aside _ _ _).queue]
  simp [released]

/-- A release puts the print at the end of the ready order with its reservations (R7). -/
theorem visitWaiting_releases {p : PrintRecord} (hr : s.heldReasons p = []) (hp : s.findPrint p.handle = some p)
    (hw : p.state = .waiting) :
    (visitWaiting s p.handle).queue.readyOrder = s.queue.readyOrder ++ [p.handle] ∧
      ∃ q, (visitWaiting s p.handle).findPrint p.handle = some q ∧ q.state = .ready ∧ q.heldFor = [] ∧
        ∀ c : Chan, q.reservation[c] = ceilDiv (p.estimates[c] * (100 + s.control.inkMargin)) 100 := by
  have hv : visitWaiting s p.handle = releasePrint p s := by
    simp only [visitWaiting, hp, hw, hr, if_true]
  have hq := releasePrint_queue p s
  have hprints : (releasePrint p s).queue.prints = (s.mapPrint p.handle (released s p)).queue.prints := by rw [hq]
  rw [hv]
  refine ⟨congrArg PrintQueue.readyOrder hq, released s p p, ?_, rfl, rfl, fun c => ?_⟩
  · exact (findPrint_queue hprints _).trans (findPrint_mapPrint (s := s) _ (fun _ => rfl) hp)
  · simp [released, State.wanted, reservationFor]

/-- Settles O56: the reasons by their conditions, the re-check by induction on the ready order, and a start by what it
writes before its feed. -/
theorem releaseCheck : Obligations.ReleaseCheck := by
  unfold Obligations.ReleaseCheck
  refine ⟨fun m base ps hn => ?_, fun s => rfl, fun h reason p s hp => ⟨fun hr => ?_, fun hr =>
    returnToWaiting_ready hp hr reason⟩, fun p rest s hs hp hr => ?_, fun s p => ⟨?_, ?_, ?_, ?_, fun c => ?_, ?_,
    visitWaiting_releases⟩⟩
  · rintro failed before p rest rfl
    refine (recheckFailures_iff m base before p rest hn).trans ((recheckFits_iff ..).trans ?_)
    rfl
  · simp only [returnToWaiting, hp, hr, if_false]
  · dsimp only
    have hstep := startStep_oldest hs hp
    refine ⟨fun h => ?_, fun h hn => ?_, fun h hn => ?_⟩
    · exact hstep.trans (if_neg (Nat.not_le.mpr h))
    · exact hstep.trans ((if_pos h).trans (if_neg (by rw [spanFor, hn]; decide)))
    · obtain ⟨t, q, he, hq, hp', hsn, hroll, hhold, hfl, hst⟩ :=
        commitStart_leaves (readyPrints_find hp) hr (spanFor s p)
      refine ⟨t, q, ?_, hq, hp', ⟨_, hsn, fun e he => ?_⟩, hroll, hhold, hfl, fun e => (hst e).trans ?_⟩
      · exact hstep.trans ((if_pos h).trans ((if_pos hn).trans (congrArg some he)))
      · rw [he]
        rfl
      · rw [start_drops_iff, mem_startEntries]
        rfl
  · simp [mem_heldReasons]
  · simp [mem_heldReasons]
  · rw [← mediaFits_iff, Bool.not_eq_true]
    simp [mem_heldReasons]
  · rw [← editionFits_false]
    simp [mem_heldReasons]
  · rw [← inkFits_false]
    simp [mem_heldReasons]
  · rw [← costFits_false]
    simp [mem_heldReasons]

end Sys2Proof.Machine
end

section
/-! PROOFS. What no command but its own writes, the law of the parcel queue along every step, and the laws at reset. -/

namespace Sys2Proof.Machine

open Sys2Proof

variable {s t : State}

/-! ## What only its own request writes -/

/-- What a command outside `writesStored` leaves: the access level, the stored settings and tables, the day, the masks,
the colour codes and the contents of the reference sets. -/
structure Spared (s t : State) : Prop where
  stored : t.stored = s.stored
  masks : ∀ k : NoticeKind, (t.notice k).mask = (s.notice k).mask
  colours : ∀ c : Chan, (t.channel c).colourCode = (s.channel c).colourCode
  sets : ∀ i : Fin 32, SetKept s.colour.sets[i] t.colour.sets[i]

theorem Held.spared (h : Held s t) : Spared s t := ⟨h.stored, h.masks, h.colours, h.sets⟩

theorem Kept.spared (h : Kept s t) : Spared s t := h.toHeld.spared

theorem Spared.refl (s : State) : Spared s s := (Held.refl s).spared

theorem Spared.trans {r : State} (h : Spared r s) (g : Spared s t) : Spared r t :=
  ⟨g.stored.trans h.stored, fun k => (g.masks k).trans (h.masks k), fun c => (g.colours c).trans (h.colours c),
   fun i => (h.sets i).trans (g.sets i)⟩

theorem reply_spared (tag : Nat) (code : ReplyCode) (kind : Nat) (fields : ReplyFields) (s : State) :
    Spared s (reply tag code kind fields s) := (reply_kept (.refl s) ..).spared

theorem request_spared (tag kind : Nat) (level : AccessLevel) {body : State → State} (h : Spared s (body s)) :
    Spared s (request tag kind level body s) := by
  unfold request
  split
  · exact h
  · exact reply_spared ..

/-- COST_DROP takes a record from the log, which is none of what is spared. -/
theorem costDropRequest_spared (tag sequence : Nat) (s : State) : Spared s (costDropRequest tag sequence s) := by
  have hk : Kept { s with cost := { s.cost with log := s.cost.log.drop 1 } } (dropRecord s) :=
    releaseChecks_kept (earlyFullCheck_kept (.refl _))
  have hd : Spared s (dropRecord s) := ⟨hk.stored, hk.masks, hk.colours, hk.sets⟩
  unfold costDropRequest
  split
  · exact reply_spared ..
  · split
    · exact hd.trans (reply_kept (finish_kept (.refl _)) _ _ _ _).spared
    · exact reply_spared ..

/-- Every command outside the list spares what the list's commands write. -/
theorem exec_spared (c : Instr) (s : State) (hw : writesStored c = false) : ∃ t, exec c s = .next t ∧ Spared s t := by
  cases c with
  | powerOn | reset | factoryRestore | access | passwordSet | date | dayTimerExpiry | setInkMargin | setUncheckedPolicy
  | setNoticeMask | setLamp | setHaltRouting | setAttnRouting | trimSet | dropRowSet | manualModeSet | channelColour
  | tariffSet | mediaSet | referenceLoad => cases hw
  | ident tag clear =>
    refine ⟨_, rfl, request_spared _ _ _ (Spared.trans ?_ (reply_spared ..))⟩
    split
    · exact (clearFaultCounters_kept (.refl s)).spared
    · exact .refl s
  | settingsQuery | rollQuery | cutQuery | colourQuery | priceQueryTariff | priceQueryMedia | priceQueryLog
  | engineQuery => exact ⟨_, rfl, request_spared _ _ _ (reply_spared ..)⟩
  | clearFaultChannel => exact ⟨_, rfl, request_spared _ _ _ (clearChannelRequest_kept (.refl s) ..).spared⟩
  | clearFaultTransport => exact ⟨_, rfl, request_spared _ _ _ (clearTransportRequest_kept (.refl s) _).spared⟩
  | clearFaultVerdictLatch => exact ⟨_, rfl, request_spared _ _ _ (clearLatchRequest_kept (.refl s) _).spared⟩
  | printSubmit => exact ⟨_, rfl, request_spared _ _ _ (submitRequest_sound (.refl s) ..).toHeld.spared⟩
  | printRelease => exact ⟨_, rfl, request_spared _ _ _ (releaseRequest_kept (.refl s) ..).spared⟩
  | printCancel => exact ⟨_, rfl, request_spared _ _ _ (cancelRequest_kept (.refl s) ..).spared⟩
  | printQuery => exact ⟨_, rfl, request_spared _ _ _ (printQueryReply_kept (.refl s) ..).spared⟩
  | inkQuery => exact ⟨_, rfl, request_spared _ _ _ (inkQueryReply_kept (.refl s) ..).spared⟩
  | meterQuery => exact ⟨_, rfl, request_spared _ _ _ (meterQueryReply_kept (.refl s) ..).spared⟩
  | rollLoad => exact ⟨_, rfl, request_spared _ _ _ (rollLoadRequest_kept (.refl s) ..).spared⟩
  | rollConfirm => exact ⟨_, rfl, request_spared _ _ _ (rollConfirmRequest_kept (.refl s) _).spared⟩
  | move => exact ⟨_, rfl, request_spared _ _ _ (moveRequest_kept (.refl s) ..).spared⟩
  | cutAt => exact ⟨_, rfl, request_spared _ _ _ (cutAtRequest_kept (.refl s) ..).spared⟩
  | cutNow => exact ⟨_, rfl, request_spared _ _ _ (cutNowRequest_kept (.refl s) ..).spared⟩
  | referenceSeal => exact ⟨_, rfl, request_spared _ _ _ (referenceSealRequest_kept (.refl s) ..).spared⟩
  | referenceQuery => exact ⟨_, rfl, request_spared _ _ _ (referenceQueryRequest_kept (.refl s) ..).spared⟩
  | calibrate => exact ⟨_, rfl, request_spared _ _ _ (calibrateRequest_kept (.refl s) _).spared⟩
  | editionOpen => exact ⟨_, rfl, request_spared _ _ _ (editionOpenRequest_kept (.refl s) ..).spared⟩
  | editionHold => exact ⟨_, rfl, request_spared _ _ _ (editionHoldRequest_kept (.refl s) ..).spared⟩
  | editionResume => exact ⟨_, rfl, request_spared _ _ _ (editionResumeRequest_kept (.refl s) ..).spared⟩
  | editionClose => exact ⟨_, rfl, request_spared _ _ _ (editionCloseRequest_kept (.refl s) ..).spared⟩
  | editionArchive => exact ⟨_, rfl, request_spared _ _ _ (editionArchiveRequest_kept (.refl s) ..).spared⟩
  | editionQuery => exact ⟨_, rfl, request_spared _ _ _ (editionQueryReply_kept (.refl s) ..).spared⟩
  | closedQuery => exact ⟨_, rfl, request_spared _ _ _ (closedQueryReply_kept (.refl s) ..).spared⟩
  | costRead => exact ⟨_, rfl, request_spared _ _ _ (costReadRequest_kept (.refl s) _).spared⟩
  | costDrop => exact ⟨_, rfl, request_spared _ _ _ (costDropRequest_spared ..)⟩
  | unknownKind => exact ⟨_, rfl, reply_spared ..⟩
  | frameCheckFault => exact ⟨_, rfl, (refreshPanel_kept (discardFrame_kept (.refl s) _ _)).spared⟩
  | frameLengthFault => exact ⟨_, rfl, (refreshPanel_kept (discardFrame_kept (.refl s) _ _)).spared⟩
  | gapTimeout => exact ⟨_, rfl, (refreshPanel_kept (gapExpires_kept (.refl s) _)).spared⟩
  | overrun => exact ⟨_, rfl, (refreshPanel_kept (receiveFrame_kept (.refl s) _)).spared⟩
  | sendListDrain => exact ⟨_, rfl, (refreshPanel_kept (drainSendList_kept (.refl s) _)).spared⟩
  | engineReady => exact ⟨_, rfl, (readyFrame_kept (.refl s) _).spared⟩
  | swath => exact ⟨_, rfl, (swathFrame_kept (.refl s) ..).spared⟩
  | feedAsk => exact ⟨_, rfl, (feedAskFrame_kept (.refl s) ..).spared⟩
  | printDone => exact ⟨_, rfl, (printDone_kept (hearAndRefresh_kept (.refl s) _) ..).spared⟩
  | printFail => exact ⟨_, rfl, (printFailFrame_kept (.refl s) ..).spared⟩
  | engineUnknownKind => exact ⟨_, rfl, (refuseFrame_kept (hearAndRefresh_kept (.refl s) _) ..).spared⟩
  | silenceTimeout =>
    refine ⟨_, rfl, ?_⟩
    split
    · exact .refl s
    · exact (silenceExpires_kept (.refl s) _).spared
  | calibrated => exact ⟨_, rfl, (calibrated_kept (.refl s) _).spared⟩
  | calibrationFault => exact ⟨_, rfl, (calibrationFault_kept (.refl s) ..).spared⟩
  | calibrationTimeout => exact ⟨_, rfl, (calibrationExpires_kept (.refl s)).spared⟩
  | calibrationRetryExpiry => exact ⟨_, rfl, (retryExpires_kept (.refl s)).spared⟩
  | readings => exact ⟨_, rfl, (readingsFrame_kept (.refl s) ..).spared⟩
  | scanFault => exact ⟨_, rfl, (scanFaultFrame_kept (.refl s) ..).spared⟩
  | scanTimeout => exact ⟨_, rfl, (scanExpires_kept (.refl s)).spared⟩
  | spectroFrameIgnored => exact ⟨_, rfl, .refl s⟩
  | flushWaitExpiry => exact ⟨_, rfl, (flushExpires_kept (.refl s)).spared⟩
  | cartridgeInserted => exact ⟨_, rfl, (insertCartridge_kept (.refl s) _).spared⟩
  | cartridgeRemoved => exact ⟨_, rfl, (removeCartridge_kept (.refl s) _).spared⟩
  | tagReadDone => exact ⟨_, rfl, (tagRead_kept (.refl s) _).spared⟩
  | tagWriteDone => exact ⟨_, rfl, (tagWrite_kept (.refl s) _).spared⟩
  | tagTransferTimeout => exact ⟨_, rfl, (tagTimeout_kept (.refl s)).spared⟩
  | flowPulse => exact ⟨_, rfl, (pulse_kept (.refl s) _).spared⟩
  | refillTimeout => exact ⟨_, rfl, (refillExpires_kept (.refl s) _).spared⟩
  | drySense => exact ⟨_, rfl, (drySensed_kept (.refl s) _).spared⟩
  | driverArrival => exact ⟨_, rfl, (arrival_kept (.refl s)).spared⟩
  | movementTimeout => exact ⟨_, rfl, (movementExpires_kept (.refl s)).spared⟩
  | driverFault => exact ⟨_, rfl, (driverFaults_kept (.refl s)).spared⟩
  | rollPresentChange => exact ⟨_, rfl, (rollPresentTakes_kept (.refl s) _).spared⟩
  | rollEnd => exact ⟨_, rfl, (rollEndTrips_kept (.refl s)).spared⟩
  | flapSettled => exact ⟨_, rfl, (flapSettles_kept (.refl s)).spared⟩
  | settleLimitExpiry => exact ⟨_, rfl, (settleExpires_kept (.refl s)).spared⟩
  | bladeHome => exact ⟨_, rfl, (bladeReturns_kept (.refl s)).spared⟩
  | bladeLimitExpiry => exact ⟨_, rfl, (bladeExpires_kept (.refl s)).spared⟩
  | blinkPeriod => exact ⟨_, rfl, (refreshPanel_kept (timeTo_kept (.refl s) _)).spared⟩
  | rollEndSensorShowsMedia =>
    exact ⟨_, rfl, (refreshPanel_kept (rollNotice_kept (setRollEnd_kept (.refl s) _) _)).spared⟩
  | linkByteReceived => exact ⟨_, rfl, (refreshPanel_kept (receiveByte_kept (.refl s) _ _)).spared⟩
  | bladeLeavesRest => exact ⟨_, rfl, (bladeLeaves_kept (.refl s)).spared⟩

/-- Settles O14: what each command outside the list keeps, taken from the laws of its operations. -/
theorem onlyItsRequestWrites : Obligations.OnlyItsRequestWrites := by
  unfold Obligations.OnlyItsRequestWrites
  intro c s t hw h
  obtain ⟨u, hu, k⟩ := exec_spared c s hw
  rw [hu] at h
  cases h
  exact ⟨k.stored, k.masks, k.colours, k.sets⟩

/-! ## The law of the parcel queue -/

/-- Settles O4: the law is one of the five that every step keeps. -/
theorem tankLawKept : Obligations.TankLawKept := by
  unfold Obligations.TankLawKept
  intro s t l h
  obtain ⟨q, k⟩ := lawful_of_step h
  exact k.laws.tank l

/-! ## The state after reset -/

/-- No channel is pumping, and each sub-tank and its checkpoint are empty. -/
theorem reset_tanks : TankLaw State.reset := fun c => by
  have hc : State.reset.channel c = Channel.delivered c := by simp [State.reset, State.channel]
  have hi : State.reset.store.ink[c] = ⟨0, [], 0, 0⟩ := by simp [State.reset]
  have hp : ParcelLaw 0 [] := ⟨rfl, by simp, by simp, by simp⟩
  rw [hc, hi]
  exact ⟨⟨hp, ⟨fun _ e _ => (by cases e), fun _ e _ => (by cases e)⟩⟩, hp⟩

theorem reset_laws : Laws State.reset where
  tank := reset_tanks
  residues c := by simp [State.reset]
  stations := .nil
  capacities := by constructor <;> exact Nat.zero_le _
  silence h := by cases h

/-- Before the conditions are restored HALT is asserted, and ATTN and the lamps are not (R173, R190, R192). -/
theorem reset_lines : LinesFollow State.reset where
  halt := rfl
  attn := rfl
  lit i := by simp [State.reset, State.lampLit]

theorem reset_work : WorkLaw State.reset where
  rollLaw := ⟨.nil, fun _ h => absurd h List.not_mem_nil, fun _ h => (by cases h)⟩
  printsLaw := ⟨.nil, rfl, by decide, fun _ h => (by cases h), fun _ h => absurd h List.not_mem_nil,
    fun _ h => absurd h List.not_mem_nil, by decide⟩
  editionLaw := ⟨.nil, fun _ h => absurd h List.not_mem_nil, fun _ h => absurd h List.not_mem_nil,
    fun _ h => absurd h List.not_mem_nil⟩

theorem reset_ties : TiesLaw State.reset where
  index _ h := absurd h List.not_mem_nil
  own _ h := absurd h List.not_mem_nil
  tied _ h := absurd h List.not_mem_nil

theorem reset_supply : SupplyLaw State.reset where
  order := .nil
  ready h := by simp [State.reset, PrintQueue.initial]
  within _ := Nat.zero_le _

/-- Settles O10: every list is empty and no print holds anything, and the lines stand as before the conditions are
restored. -/
theorem lawsAtReset : Obligations.LawsAtReset := by
  unfold Obligations.LawsAtReset
  exact ⟨reset_laws, reset_lines, reset_work, reset_ties, reset_supply⟩

end Sys2Proof.Machine
end

section
/-! PROOFS. The cartridge memory table: the three cases of a write, and what each leaves (R32). -/

namespace Sys2Proof.Machine

open Sys2Proof

variable {table : List MemoryEntry} {e : MemoryEntry}

/-- A write for a serial that the table holds (R32). -/
theorem writeEntry_replaces {x : MemoryEntry} (hx : x ∈ table) (hs : x.serial = e.serial) :
    writeEntry table e = table.map fun y => if y.serial = e.serial then e else y := by
  have ha : table.any (fun x => x.serial == e.serial) = true := List.any_eq_true.mpr ⟨x, hx, by simpa using hs⟩
  simp [writeEntry, ha]

theorem any_serial_false (hn : ∀ x ∈ table, x.serial ≠ e.serial) :
    table.any (fun x => x.serial == e.serial) = false := by
  simpa using hn

/-- A write for a new serial with room in the table (R32). -/
theorem writeEntry_adds (hn : ∀ x ∈ table, x.serial ≠ e.serial) (hl : table.length < 32) :
    writeEntry table e = table ++ [e] := by
  simp [writeEntry, any_serial_false hn, hl, Config.memoryRoom]

/-- The first place of a list's greatest number. -/
theorem findIdx_greatest {l : List Nat} (hl : l ≠ []) : ∃ h : l.findIdx (fun a => a == l.foldl max 0) < l.length,
    ∀ a ∈ l, a ≤ l[l.findIdx fun a => a == l.foldl max 0] := by
  have hmax : l.foldl max 0 = l.max hl := by rw [List.foldl_max_eq_max hl, Nat.zero_max]
  rw [hmax]
  have hlt : l.findIdx (fun a => a == l.max hl) < l.length :=
    List.findIdx_lt_length_of_exists ⟨_, List.max_mem hl, by simp⟩
  have hat : l[l.findIdx fun a => a == l.max hl] = l.max hl := by simpa using List.findIdx_getElem (w := hlt)
  exact ⟨hlt, fun a ha => hat.symm ▸ List.le_max_of_mem ha⟩

/-- The first place of the greatest number that a list's members give. -/
theorem findIdx_greatest_map {α : Type} (f : α → Nat) {l : List α} (hl : l ≠ []) :
    ∃ h : (l.map f).findIdx (fun a => a == (l.map f).foldl max 0) < l.length,
      ∀ x ∈ l, f x ≤ f l[(l.map f).findIdx fun a => a == (l.map f).foldl max 0] := by
  obtain ⟨hlt, hle⟩ := findIdx_greatest (l := l.map f) (by simpa using hl)
  exact ⟨by simpa using hlt, fun x hx => by simpa using hle _ (List.mem_map.mpr ⟨x, hx, rfl⟩)⟩

/-- The place of the oldest entry holds an entry that no other is older than. -/
theorem oldestEntry_spec (seen : Nat) (hl : table ≠ []) : ∃ h : oldestEntry seen table < table.length,
    ∀ x ∈ table, stampAge seen x.stamp ≤ stampAge seen table[oldestEntry seen table].stamp :=
  findIdx_greatest_map (fun x : MemoryEntry => stampAge seen x.stamp) hl

/-- A write for a new serial into a full table takes the place of the one written longest ago (R32). -/
theorem writeEntry_evicts (hn : ∀ x ∈ table, x.serial ≠ e.serial) (hl : table.length = 32) :
    ∃ before old after, table = before ++ old :: after ∧ writeEntry table e = before ++ e :: after ∧
      ∀ x ∈ table, stampAge e.stamp x.stamp ≤ stampAge e.stamp old.stamp := by
  have hne : table ≠ [] := fun h => by simp [h] at hl
  obtain ⟨hlt, hold⟩ := oldestEntry_spec e.stamp hne
  have hw : writeEntry table e = table.set (oldestEntry e.stamp table) e := by
    simp [writeEntry, any_serial_false hn, hl, Config.memoryRoom]
  refine ⟨table.take (oldestEntry e.stamp table), _, table.drop (oldestEntry e.stamp table + 1), ?_, ?_, hold⟩
  · simp
  · rw [hw, List.set_eq_take_append_cons_drop, if_pos hlt]

/-- No write brings a serial into the table twice. -/
theorem writeEntry_nodup (h : (table.map (·.serial)).Nodup) (hl : table.length ≤ 32) :
    ((writeEntry table e).map (·.serial)).Nodup := by
  by_cases hx : ∃ x ∈ table, x.serial = e.serial
  · obtain ⟨x, hx, hs⟩ := hx
    rw [writeEntry_replaces hx hs, List.map_map]
    have hm : table.map ((·.serial) ∘ fun y => if y.serial = e.serial then e else y) = table.map (·.serial) :=
      List.map_congr_left fun y _ => by
        simp only [Function.comp_apply]
        split
        · exact Eq.symm ‹_›
        · rfl
    rwa [hm]
  · have hn : ∀ x ∈ table, x.serial ≠ e.serial := fun x hm hs => hx ⟨x, hm, hs⟩
    rcases Nat.lt_or_eq_of_le hl with hl | hl
    · rw [writeEntry_adds hn hl, List.map_append, List.nodup_append]
      refine ⟨h, by simp, fun a ha b hb => ?_⟩
      obtain ⟨x, hm, rfl⟩ := List.mem_map.mp ha
      obtain rfl : b = e.serial := by simpa using hb
      exact hn x hm
    · obtain ⟨before, old, after, ht, hw, -⟩ := writeEntry_evicts hn hl
      rw [hw]
      subst ht
      have hnew : e.serial ∉ (before ++ after).map (·.serial) := fun hm => by
        obtain ⟨x, hx, hs⟩ := List.mem_map.mp hm
        exact hn x (List.perm_middle.mem_iff.mpr (List.mem_cons_of_mem _ hx)) hs
      have hrest := (List.nodup_cons.mp ((List.perm_middle.map _).nodup_iff.mp h)).2
      exact (List.perm_middle.map _).nodup_iff.mpr (List.nodup_cons.mpr ⟨hnew, hrest⟩)

theorem mem_writeEntry (hl : table.length ≤ 32) : e ∈ writeEntry table e := by
  by_cases hx : ∃ x ∈ table, x.serial = e.serial
  · obtain ⟨x, hx, hs⟩ := hx
    rw [writeEntry_replaces hx hs]
    exact List.mem_map.mpr ⟨x, hx, if_pos hs⟩
  · have hn : ∀ x ∈ table, x.serial ≠ e.serial := fun x hm hs => hx ⟨x, hm, hs⟩
    rcases Nat.lt_or_eq_of_le hl with hl | hl
    · simp [writeEntry_adds hn hl]
    · obtain ⟨before, old, after, -, hw, -⟩ := writeEntry_evicts hn hl
      simp [hw]

/-- Settles O54: the three cases of a write, and what each leaves. -/
theorem memoryTableRule : Obligations.MemoryTableRule := by
  unfold Obligations.MemoryTableRule
  exact fun table e hn hl => ⟨writeEntry_nodup hn hl, writeEntry_length e hl, mem_writeEntry hl,
    fun _ hx hs => writeEntry_replaces hx hs, writeEntry_adds, writeEntry_evicts⟩

end Sys2Proof.Machine
end

section
/-! PROOFS. The ink supply: its two requests, what its operations leave in a channel's record, and its events. -/

namespace Sys2Proof.Machine

open Sys2Proof

variable {r s t : State} {c d : Chan}

/-! ## The requests -/

/-- At SERVICE the request is never refused ACCESS (R182, R187). -/
theorem exec_channelColour (hs : s.control.level = .service) (tag channel code : Nat) :
    exec (.channelColour tag channel code) s = .next (colourRequest tag channel code s) := by
  have hx : exec (.channelColour tag channel code) s =
    .next (request tag 0x18 .service (colourRequest tag channel code) s) := rfl
  rw [hx, request, hs]
  rfl

theorem exec_clearFaultChannel (tag n : Nat) (s : State) :
    exec (.clearFaultChannel tag n) s = .next (clearChannelRequest tag n s) := next_request_operator ..

theorem code_allowed {code : Nat} (hl : 1 ≤ code) (hu : code ≤ 30) : ¬(code < 1 ∨ 30 < code) := by omega

theorem colourRequest_recolours {code : Nat} (tag : Nat) (hl : 1 ≤ code) (hu : code ≤ 30)
    (hb : ¬((s.channel c).slot = .reading ∨ (s.channel c).refill = .pumping ∨ (s.channel c).refill = .suspended)) :
    colourRequest tag c.val code s =
      reply tag .ok 0x18 (.slot ((recolour c code s).channel c).slot) (finish (recolour c code s)) := by
  simp only [colourRequest, channelOf_val, code_allowed hl hu, hb, if_false]

theorem colourRequest_busy {code : Nat} (tag : Nat) (hl : 1 ≤ code) (hu : code ≤ 30)
    (hb : (s.channel c).slot = .reading ∨ (s.channel c).refill = .pumping ∨ (s.channel c).refill = .suspended) :
    colourRequest tag c.val code s = reply tag .busy 0x18 .none s := by
  simp only [colourRequest, channelOf_val, code_allowed hl hu, hb, if_false, if_true]

theorem colourRequest_range {channel code : Nat} (tag : Nat) (h : 12 ≤ channel ∨ code = 0 ∨ 30 < code) (s : State) :
    colourRequest tag channel code s = reply tag .range 0x18 .none s := by
  unfold colourRequest
  split
  · rfl
  · rename_i c hc
    have hn : ¬12 ≤ channel := fun hn => by simp [channelOf_none hn] at hc
    rw [if_pos (by omega)]

/-- Settles O27: each request's tests in their order. -/
theorem inkRequests : Obligations.InkRequests := by
  unfold Obligations.InkRequests
  intro tag c s
  refine ⟨fun code hs hl hu => ⟨fun h1 h2 h3 => ?_, fun hb => ?_⟩, fun channel code hs h => ?_, fun hf => ?_,
    fun hf => ?_, fun n hn => ?_⟩
  · rw [exec_channelColour hs, colourRequest_recolours tag hl hu (by simp [h1, h2, h3])]
  · rw [exec_channelColour hs, colourRequest_busy tag hl hu hb]
  · rw [exec_channelColour hs, colourRequest_range tag h]
  · simp only [exec_clearFaultChannel, clearChannelRequest, channelOf_val, hf, if_true]
  · simp only [exec_clearFaultChannel, clearChannelRequest, channelOf_val, hf, if_false]
  · simp only [exec_clearFaultChannel, clearChannelRequest, channelOf_none hn]

/-! ## What the operations leave in a channel's record -/

@[simp] theorem saveInk_channel (s : State) (d : Chan) : (saveInk s).channel d = s.channel d := rfl

@[simp] theorem setRefillMarker_channel (c : Chan) (b : Bool) (s : State) (d : Chan) :
    (setRefillMarker c b s).channel d = s.channel d := rfl

@[simp] theorem memoryWrite_channel (serial n : Nat) (s : State) (d : Chan) :
    (memoryWrite serial n s).channel d = s.channel d := rfl

@[simp] theorem queueTransfer_channel (x : TagTransfer) (s : State) (d : Chan) :
    (queueTransfer x s).channel d = s.channel d := rfl

@[simp] theorem beginTransfer_channel (q : List TagTransfer) (s : State) (d : Chan) :
    (beginTransfer q s).channel d = s.channel d := rfl

theorem channel_of_ink (h : t.ink = s.ink) (d : Chan) : t.channel d = s.channel d := by
  rw [State.channel, State.channel, h]

@[simp] theorem raise_channel (b : NoticeBody) (s : State) (d : Chan) : (raise b s).channel d = s.channel d :=
  channel_of_ink (raise_aside b s).ink d

@[simp] theorem cartridgeNotice_channel (c : Chan) (s : State) (d : Chan) :
    (cartridgeNotice c s).channel d = s.channel d := raise_channel ..

@[simp] theorem haltUpdate_channel (s : State) (d : Chan) : (haltUpdate s).channel d = s.channel d :=
  channel_of_ink (haltUpdate_aside s).ink d

@[simp] theorem releaseChecks_channel (s : State) (d : Chan) : (releaseChecks s).channel d = s.channel d :=
  channel_of_ink (releaseChecks_ink s) d

@[simp] theorem repair_channel (c : Chan) (s : State) (d : Chan) : (repair c s).channel d = s.channel d :=
  channel_of_ink (repairLoop_ink _ c s) d

@[simp] theorem handOn_channel (c : Chan) (before s : State) (d : Chan) :
    (handOn c before s).channel d = s.channel d := by
  have hr : ∀ u : State, u.channel d = s.channel d →
      (if u.usable c = before.usable c ∧ (u.channel c).slot = (before.channel c).slot then u
        else releaseChecks u).channel d = s.channel d := fun u hu => by
    split
    · exact hu
    · rw [releaseChecks_channel, hu]
  refine hr _ ?_
  split
  · exact repair_channel c s d
  · rfl

theorem mapChannel_same (s : State) (c : Chan) (f : Channel → Channel) :
    (s.mapChannel c f).channel c = f (s.channel c) := by
  rw [mapChannel_channel, if_pos rfl]

theorem mapChannel_other (h : d ≠ c) (s : State) (f : Channel → Channel) :
    (s.mapChannel c f).channel d = s.channel d := by
  rw [mapChannel_channel, if_neg h]

/-! ## A taking -/

theorem makeSpent_channel (c : Chan) (s : State) : (makeSpent c s).channel c = { s.channel c with slot := .spent } := by
  unfold makeSpent
  split
  · rename_i h
    rw [← h]
  · rw [cartridgeNotice_channel, mapChannel_same]

theorem makeSpent_other (h : d ≠ c) (s : State) : (makeSpent c s).channel d = s.channel d := by
  unfold makeSpent
  split
  · rfl
  · rw [cartridgeNotice_channel, mapChannel_other h]

theorem setRemaining_channel {k : Cartridge} (hk : (s.channel c).cartridge = some k) (n : Nat) :
    (setRemaining c n s).channel c = { s.channel c with cartridge := some { k with remaining := n } } := by
  simp only [setRemaining, hk, queueTransfer_channel, memoryWrite_channel, mapChannel_same]

theorem setRemaining_other (h : d ≠ c) (n : Nat) (s : State) : (setRemaining c n s).channel d = s.channel d := by
  unfold setRemaining
  split
  · rfl
  · rw [queueTransfer_channel, memoryWrite_channel, mapChannel_other h]

/-- The tank side of a taking leaves the cartridge to the other side. -/
theorem takeIntoTank_cartridge (j : RefillJob) (ch : Channel) : (takeIntoTank j ch).cartridge = ch.cartridge := by
  unfold takeIntoTank
  dsimp only
  split <;> rfl

/-- A taking leaves what the tank side and the cartridge side make of the record, whatever becomes of the slot. -/
theorem take_channel {j : RefillJob} {k : Cartridge} (hj : (s.channel c).job = some j)
    (hk : (s.channel c).cartridge = some k) : ∃ slot, (take c s).channel c =
      { takeIntoTank j (s.channel c) with
        cartridge := some { k with remaining := k.remaining - j.pumped }, slot := slot } := by
  have hc : ((s.mapChannel c (takeIntoTank j)).channel c).cartridge = some k := by
    rw [mapChannel_same, takeIntoTank_cartridge, hk]
  simp only [take, hj, hk]
  split
  · exact ⟨.spent, by
      rw [makeSpent_channel, saveInk_channel, setRefillMarker_channel, setRemaining_channel hc, mapChannel_same]⟩
  · exact ⟨(takeIntoTank j (s.channel c)).slot, by
      rw [saveInk_channel, setRefillMarker_channel, setRemaining_channel hc, mapChannel_same]⟩

theorem take_other (h : d ≠ c) (s : State) : (take c s).channel d = s.channel d := by
  unfold take
  split
  · dsimp only
    split
    · rw [makeSpent_other h, saveInk_channel, setRefillMarker_channel, setRemaining_other h, mapChannel_other h]
    · rw [saveInk_channel, setRefillMarker_channel, setRemaining_other h, mapChannel_other h]
  · rfl

theorem addVolume_sum (j : RefillJob) (v : Nat) (parcels : List Parcel) :
    ((addVolume j v parcels).map (·.volume)).sum = (parcels.map (·.volume)).sum + v := by
  unfold addVolume
  split
  · split
    · rename_i p hp
      obtain ⟨ys, rfl⟩ := List.getLast?_eq_some_iff.mp hp
      simp [Nat.add_assoc]
    · rename_i hp
      simp [List.getLast?_eq_none_iff.mp hp]
  · simp

/-- The tank side adds the pumped volume to level and parcels, and the pump stops (R35, R38). -/
theorem takeIntoTank_adds (j : RefillJob) (ch : Channel) : (takeIntoTank j ch).level = ch.level + j.pumped ∧
    ((takeIntoTank j ch).parcels.map (·.volume)).sum = (ch.parcels.map (·.volume)).sum + j.pumped ∧
    (takeIntoTank j ch).pumpRun = false := by
  unfold takeIntoTank
  dsimp only
  split
  · rename_i hv
    exact ⟨by simp [hv], by simp [hv], rfl⟩
  · exact ⟨rfl, addVolume_sum .., rfl⟩

/-- Settles O44: the two sides of a taking. -/
theorem takingMovesInk : Obligations.TakingMovesInk := by
  unfold Obligations.TakingMovesInk
  intro c j k s hj hk
  obtain ⟨slot, ht⟩ := take_channel hj hk
  obtain ⟨hl, hp, hr⟩ := takeIntoTank_adds j (s.channel c)
  rw [ht]
  exact ⟨hl, hp, rfl, hr, fun d hd => take_other hd s⟩

/-! ## A channel reconsidered -/

/-- IDLE or WAITING: the states in which a channel is reconsidered (R36). -/
def AtRest (c : Chan) (s : State) : Prop := (s.channel c).refill = .idle ∨ (s.channel c).refill = .waiting

theorem reconsider_inUse (h : ¬AtRest c s) : reconsider c s = s := if_neg h

theorem reconsider_full (h : AtRest c s) (hl : 36000000 < (s.channel c).level) :
    reconsider c s = setRefill c .idle s := by
  rw [AtRest] at h
  simp only [reconsider, h, hl, Config.refillTrigger, if_true]

theorem reconsider_waits (h : AtRest c s) (hl : (s.channel c).level ≤ 36000000)
    (hu : (s.channel c).slot ≠ .usable ∨ 24 ≤ (s.channel c).parcels.length) :
    reconsider c s = setRefill c .waiting s := by
  rw [AtRest] at h
  simp only [reconsider, h, Nat.not_lt.mpr hl, hu, Config.refillTrigger, Config.parcelRoom, if_true, if_false]

section supplied

variable (h : AtRest c s) (hl : (s.channel c).level ≤ 36000000) (hu : (s.channel c).slot = .usable)
  (hp : (s.channel c).parcels.length < 24)

include h hl hu hp

theorem reconsider_supplied : reconsider c s =
    if s.active.isSome ∧ 12000000 ≤ (s.channel c).level then setRefill c .idle s else startRefill c s := by
  have hn : ¬((s.channel c).slot ≠ .usable ∨ 24 ≤ (s.channel c).parcels.length) := by simp [hu, hp]
  rw [AtRest] at h
  simp only [reconsider, h, Nat.not_lt.mpr hl, hn, Config.refillTrigger, Config.parcelRoom, Config.printFloor, if_true,
    if_false]

theorem reconsider_starts {k : Cartridge} (hk : (s.channel c).cartridge = some k)
    (ha : s.active = none ∨ (s.channel c).level < 12000000) : reconsider c s =
      runPump c
        { target := min 2000000 (min k.remaining (40000000 - (s.channel c).level)), taken := 0
          price := (s.cost.tariff[k.lot]?).getD 0, lot := k.lot, serial := k.serial, pulses := 0, parcelIn := false
          deadline := none } s := by
  have hn : ¬(s.active.isSome ∧ 12000000 ≤ (s.channel c).level) := fun ⟨h1, h2⟩ => by
    rcases ha with ha | ha
    · simp [ha] at h1
    · omega
  rw [reconsider_supplied h hl hu hp, if_neg hn]
  simp only [startRefill, hk]

end supplied

theorem setRefill_channel (c : Chan) (x : RefillState) (s : State) :
    (setRefill c x s).channel c = { s.channel c with refill := x, job := none } := mapChannel_same ..

theorem runPump_channel (c : Chan) (job : RefillJob) (s : State) : (runPump c job s).channel c =
    { s.channel c with refill := .pumping, pumpRun := true
                       job := some { job with pulses := 0, deadline := some (s.clock.now + refillTime job.target) } } :=
  mapChannel_same ..

theorem runPump_marker (c : Chan) (job : RefillJob) (s : State) : (runPump c job s).store.refills[c] = true := by
  simp [runPump]

/-- What a reconsideration can do: no more than the refill state, the pump and the job of its channel, and a refill
marker. -/
theorem reconsider_cases (c : Chan) (s : State) :
    reconsider c s = s ∨ (∃ x, reconsider c s = setRefill c x s) ∨ ∃ job, reconsider c s = runPump c job s := by
  unfold reconsider
  dsimp only
  split
  · split
    · exact .inr (.inl ⟨_, rfl⟩)
    · split
      · exact .inr (.inl ⟨_, rfl⟩)
      · split
        · exact .inr (.inl ⟨_, rfl⟩)
        · unfold startRefill
          dsimp only
          split
          · exact .inl rfl
          · exact .inr (.inr ⟨_, rfl⟩)
  · exact .inl rfl

theorem reconsider_other (h : d ≠ c) (s : State) : (reconsider c s).channel d = s.channel d := by
  obtain e | ⟨x, e⟩ | ⟨job, e⟩ := reconsider_cases c s <;> rw [e]
  · exact mapChannel_other h ..
  · exact mapChannel_other h ..

/-! ## The events of a refill -/

/-- The state with one pulse more counted. -/
def pulseCounted (c : Chan) (j : RefillJob) (s : State) : State :=
  s.mapChannel c fun ch => { ch with job := some { j with pulses := j.pulses + 1 } }

theorem countPulse_eq {j : RefillJob} (hj : (s.channel c).job = some j) : countPulse c s = pulseCounted c j s := by
  simp only [countPulse, pulseCounted, State.mapChannel, hj, Option.map_some]

theorem pulseCounted_pumpedOut (c : Chan) (j : RefillJob) (s : State) :
    ((pulseCounted c j s).channel c).pumpedOut = true ↔ j.target ≤ 50 * (j.pulses + 1) := by
  simp [pulseCounted, mapChannel_same, Channel.pumpedOut, RefillJob.pumped, Config.pulseVolume]

theorem exec_flowPulse {j : RefillJob} (hj : (s.channel c).job = some j) (hr : (s.channel c).refill = .pumping)
    (hp : (s.channel c).pumpRun = true) : exec (.flowPulse c) s =
      .next (if j.target ≤ 50 * (j.pulses + 1) then finish (completeRefill c (pulseCounted c j s))
        else pulseCounted c j s) := by
  have hx : exec (.flowPulse c) s = .next (pulse c s) := rfl
  have hc : (s.channel c).refill = .pumping ∧ (s.channel c).pumpRun = true := ⟨hr, hp⟩
  simp only [hx, pulse, hc, and_self, if_true, countPulse_eq hj, pulseCounted_pumpedOut]

theorem exec_refillTimeout {j : RefillJob} (hj : (s.channel c).job = some j) (hr : (s.channel c).refill = .pumping)
    {d : Nat} (hd : j.deadline = some d) (hn : d ≤ s.clock.now) :
    exec (.refillTimeout c) s = .next (finish (faultRefill c j s)) := by
  have hx : exec (.refillTimeout c) s = .next (refillExpires c s) := rfl
  simp only [hx, refillExpires, hr, hj, hd, timeTo_past hn]

theorem exec_drySense (hr : (s.channel c).refill = .pumping) : exec (.drySense c) s = .next (finish (runDry c s)) :=
  congrArg Host.Outcome.next (if_pos hr)

/-- Outside PUMPING no event of the pump is heard (R38, R39, R41). -/
theorem pump_unheard (hr : (s.channel c).refill ≠ .pumping) : exec (.flowPulse c) s = .next s ∧
    exec (.refillTimeout c) s = .next s ∧ exec (.drySense c) s = .next s := by
  have ht : refillExpires c s = s := by
    unfold refillExpires
    split
    · exact absurd ‹_› hr
    · rfl
  exact ⟨congrArg Host.Outcome.next (if_neg fun h => hr h.1), congrArg Host.Outcome.next ht,
    congrArg Host.Outcome.next (if_neg hr)⟩

/-- Settles O43: the pump's events by their tests, and the cases of a reconsideration. -/
theorem refillEvents : Obligations.RefillEvents := by
  unfold Obligations.RefillEvents
  refine ⟨fun c j s hj => ⟨fun hr hp => ⟨fun hl => ?_, fun hl => ?_⟩, fun hr => ⟨fun d hd hn => ?_, ?_⟩⟩,
    fun c s hr => pump_unheard hr, fun c s => ⟨fun h1 h2 => ?_, fun h => ⟨fun hl => ?_, fun hl => ⟨fun hu => ?_,
      fun hu hp => ⟨fun ha hf => ?_, fun ha k hk => ?_⟩⟩⟩, fun d hd => ?_⟩⟩
  · rw [exec_flowPulse hj hr hp, if_neg (Nat.not_le.mpr hl)]
    rfl
  · rw [exec_flowPulse hj hr hp, if_pos hl]
    rfl
  · exact exec_refillTimeout hj hr hd hn
  · exact exec_drySense hr
  · exact reconsider_inUse (not_or.mpr ⟨h1, h2⟩)
  · rw [reconsider_full h hl, setRefill_channel]
  · rw [reconsider_waits h hl hu, setRefill_channel]
  · rw [reconsider_supplied h hl hu hp, if_pos ⟨ha, hf⟩, setRefill_channel]
  · rw [reconsider_starts h hl hu hp hk ha, runPump_channel]
    exact ⟨rfl, rfl, runPump_marker .., _, rfl, rfl, rfl, rfl, rfl, rfl, fun price hp => by simp [hp], rfl⟩
  · exact reconsider_other hd s

/-! ## What stays of a channel's stock -/

/-- Each channel keeps its cartridge, its level, its parcels and its last removed price. -/
structure LoadKept (s t : State) : Prop where
  cartridge : ∀ d, (t.channel d).cartridge = (s.channel d).cartridge
  level : ∀ d, (t.channel d).level = (s.channel d).level
  parcels : ∀ d, (t.channel d).parcels = (s.channel d).parcels
  lastPrice : ∀ d, (t.channel d).lastPrice = (s.channel d).lastPrice

/-- Each channel keeps these and its slot. -/
structure StockKept (s t : State) : Prop extends LoadKept s t where
  slot : ∀ d, (t.channel d).slot = (s.channel d).slot

theorem LoadKept.trans (h : LoadKept r s) (g : LoadKept s t) : LoadKept r t :=
  ⟨fun d => (g.cartridge d).trans (h.cartridge d), fun d => (g.level d).trans (h.level d),
   fun d => (g.parcels d).trans (h.parcels d), fun d => (g.lastPrice d).trans (h.lastPrice d)⟩

theorem StockKept.trans (h : StockKept r s) (g : StockKept s t) : StockKept r t :=
  ⟨h.toLoadKept.trans g.toLoadKept, fun d => (g.slot d).trans (h.slot d)⟩

theorem StockKept.ofChannels (h : ∀ d, t.channel d = s.channel d) : StockKept s t := by
  refine ⟨⟨?_, ?_, ?_, ?_⟩, ?_⟩ <;> intro d <;> rw [h]

theorem StockKept.refl (s : State) : StockKept s s := .ofChannels fun _ => rfl

theorem mapChannel_stock (c : Chan) (f : Channel → Channel) (s : State)
    (hf : ∀ ch, (f ch).slot = ch.slot ∧ (f ch).cartridge = ch.cartridge ∧ (f ch).level = ch.level ∧
      (f ch).parcels = ch.parcels ∧ (f ch).lastPrice = ch.lastPrice := by exact fun _ => ⟨rfl, rfl, rfl, rfl, rfl⟩) :
    StockKept s (s.mapChannel c f) := by
  obtain ⟨h1, h2, h3, h4, h5⟩ := hf (s.channel c)
  have hd : ∀ d, (s.mapChannel c f).channel d = if d = c then f (s.channel c) else s.channel d :=
    mapChannel_channel s c f
  refine ⟨⟨?_, ?_, ?_, ?_⟩, ?_⟩ <;> intro d <;> rw [hd] <;> by_cases h : d = c <;> simp [h, h1, h2, h3, h4, h5]

theorem runPump_stock (c : Chan) (job : RefillJob) (s : State) : StockKept s (runPump c job s) :=
  (StockKept.ofChannels (setRefillMarker_channel c true s)).trans (mapChannel_stock c (fun ch =>
    { ch with refill := .pumping, pumpRun := true
              job := some { job with pulses := 0, deadline := some (s.clock.now + refillTime job.target) } })
    (setRefillMarker c true s))

theorem reconsider_stock (c : Chan) (s : State) : StockKept s (reconsider c s) := by
  obtain e | ⟨x, e⟩ | ⟨job, e⟩ := reconsider_cases c s <;> rw [e]
  · exact .refl s
  · exact mapChannel_stock ..
  · exact runPump_stock c job s

theorem inkNotice_stock (c : Chan) (s : State) : StockKept s (inkNotice c s) :=
  .trans (.ofChannels (raise_channel _ s)) (mapChannel_stock c (fun ch => { ch with installed := false }) _)

theorem updateIndication_stock (c : Chan) (s : State) : StockKept s (updateIndication c s) := by
  unfold updateIndication
  dsimp only
  split
  · exact .refl s
  · exact (mapChannel_stock c _ s).trans ((inkNotice_stock c _).trans (.ofChannels (haltUpdate_channel _)))

theorem announceSlot_stock (c : Chan) (before s : State) : StockKept s (announceSlot c before s) := by
  unfold announceSlot
  split
  · exact mapChannel_stock ..
  · exact .ofChannels (cartridgeNotice_channel c s)

theorem recordJudged_channel (c : Chan) (k : Cartridge) (slot : SlotState) (s : State) (d : Chan) :
    (recordJudged c k slot s).channel d = s.channel d := by
  unfold recordJudged
  split
  · dsimp only
    split <;> rfl
  · rfl
  · rfl

theorem saveJudged_channel (slot : SlotState) (s : State) (d : Chan) : (saveJudged slot s).channel d = s.channel d := by
  unfold saveJudged
  split <;> rfl

/-! ## A judgement -/

theorem handOn_stock (c : Chan) (before s : State) : StockKept s (handOn c before s) :=
  .ofChannels (handOn_channel c before s)

/-- A judgement leaves its slot and its cartridge (R26, R30). -/
theorem applyJudgement_leaves (i : Bool) (c : Chan) (k : Cartridge) (slot : SlotState) (s : State) :
    ((applyJudgement i c k slot s).channel c).slot = slot ∧
      ((applyJudgement i c k slot s).channel c).cartridge = some k := by
  have hk : StockKept (s.mapChannel c fun ch => { ch with slot := slot, cartridge := some k })
      (applyJudgement i c k slot s) := by
    unfold applyJudgement
    refine StockKept.trans ?_ (handOn_stock ..)
    refine StockKept.trans ?_ (updateIndication_stock ..)
    refine StockKept.trans ?_ (.ofChannels (saveJudged_channel slot _))
    have hj : ∀ u, StockKept u (reconsider c (recordJudged c k slot u)) := fun u =>
      (StockKept.ofChannels (recordJudged_channel c k slot u)).trans (reconsider_stock c _)
    split
    · exact (hj _).trans (announceSlot_stock ..)
    · exact (hj _).trans (.ofChannels (cartridgeNotice_channel c _))
  rw [hk.slot, hk.cartridge, mapChannel_same]
  exact ⟨rfl, rfl⟩

/-- A failed read leaves REFUSED(TAG) and no fields (R29). -/
theorem refuseTag_leaves (c : Chan) (s : State) : ((refuseTag c s).channel c).slot = .refused .tag ∧
    ((refuseTag c s).channel c).cartridge = none := by
  have hk : StockKept (s.mapChannel c fun ch => { ch with slot := .refused .tag, cartridge := none })
      (refuseTag c s) := by
    unfold refuseTag
    refine StockKept.trans ?_ (handOn_stock ..)
    refine StockKept.trans ?_ (updateIndication_stock ..)
    exact (reconsider_stock c _).trans (.ofChannels (cartridgeNotice_channel c _))
  rw [hk.slot, hk.cartridge, mapChannel_same]
  exact ⟨rfl, rfl⟩

theorem readOutcome_inRange {x : TagData} (h : tagInRange x = true) (c : Chan) (s : State) : readOutcome c (some x) s =
    applyJudgement true c (cartridgeFrom s.ink.memory x)
      (judgeCartridge s.clock.day (s.channel c).colourCode (cartridgeFrom s.ink.memory x)) s := by
  simp only [readOutcome, h, if_true]

theorem readOutcome_outOfRange {x : TagData} (h : tagInRange x = false) (c : Chan) (s : State) :
    readOutcome c (some x) s = refuseTag c s := by
  simp only [readOutcome, h, Bool.false_eq_true, if_false]

theorem rememberedVolume_unknown {table : List MemoryEntry} {serial : Nat} (h : ∀ e ∈ table, e.serial ≠ serial)
    (n : Nat) : rememberedVolume table serial n = n := by
  have hf : table.find? (fun e => e.serial == serial) = none := List.find?_eq_none.mpr fun e he => by simpa using h e he
  rw [rememberedVolume, hf]

theorem rememberedVolume_known {table : List MemoryEntry} {serial : Nat} {e : MemoryEntry}
    (h : table.find? (fun x => x.serial == serial) = some e) (n : Nat) :
    rememberedVolume table serial n = min n e.remaining := by
  rw [rememberedVolume, h]

/-- The third step of R30: opened, and more than 180 days before a known day. -/
theorem expired_iff (k : Cartridge) (day : Option Nat) :
    k.expired day = true ↔ k.opened = true ∧ ∃ n, day = some n ∧ k.openedDay + 180 < n := by
  cases day <;> simp [Cartridge.expired]

section judged

variable {day : Option Nat} {code : Nat} {k : Cartridge}

theorem judgeCartridge_colour (h : k.colour ≠ code) : judgeCartridge day code k = .refused .colour := if_pos h

theorem judgeCartridge_expired (h : k.colour = code) (he : k.expired day = true) :
    judgeCartridge day code k = .refused .expired := by
  simp [judgeCartridge, h, he]

theorem judgeCartridge_fresh (h : k.colour = code) (he : ¬k.expired day = true) :
    judgeCartridge day code k = if k.remaining = 0 then .spent else .usable := by
  simp [judgeCartridge, h, he]

end judged

/-! ## The events of the slots and of the tag bus -/

theorem setCartridgeInput_slot (c d : Chan) (b : Bool) (s : State) :
    ((setCartridgeInput c b s).channel d).slot = (s.channel d).slot := rfl

theorem exec_cartridgeInserted (h : (s.channel c).slot = .empty) :
    exec (.cartridgeInserted c) s = .next (finish (beginRead c (setCartridgeInput c true s))) :=
  congrArg Host.Outcome.next (if_pos h)

theorem exec_cartridgeRemoved (c : Chan) (s : State) : exec (.cartridgeRemoved c) s = .next (removeCartridge c s) := rfl

theorem removeCartridge_empty (h : (s.channel c).slot = .empty) :
    removeCartridge c s = setCartridgeInput c false s := by
  simp only [removeCartridge, setCartridgeInput_slot, h]

theorem removeCartridge_reading (h : (s.channel c).slot = .reading) :
    removeCartridge c s = finish (firstReadOver c (removeUnread c (setCartridgeInput c false s))) := by
  simp only [removeCartridge, setCartridgeInput_slot, h]

theorem removeCartridge_judged
    (h : (s.channel c).slot = .usable ∨ (s.channel c).slot = .spent ∨ ∃ r, (s.channel c).slot = .refused r) :
    removeCartridge c s = finish (removeJudged c (setCartridgeInput c false s)) := by
  obtain h | h | ⟨r, h⟩ := h <;> simp only [removeCartridge, setCartridgeInput_slot, h]

variable {rest : List TagTransfer}

theorem nextTransfer_eq {x : TagTransfer} (h : s.ink.tagQueue = x :: rest) : nextTransfer s = beginTransfer rest s := by
  rw [nextTransfer, h]
  rfl

theorem exec_tagReadDone (h : s.ink.tagQueue = .read c :: rest) (result : Option TagData) :
    exec (.tagReadDone result) s = .next (finish (firstReadOver c (readOutcome c result (beginTransfer rest s)))) := by
  have hx : exec (.tagReadDone result) s = .next (tagRead result s) := rfl
  simp only [hx, tagRead, h, endRead, nextTransfer_eq h]

theorem exec_tagWriteDone_mark {day : Nat} (h : s.ink.tagQueue = .mark c day :: rest) (ok : Bool) :
    exec (.tagWriteDone ok) s = .next (beginTransfer rest (if ok then s.mapChannel c (marked day) else s)) := by
  have hq : (if ok then s.mapChannel c (marked day) else s).ink.tagQueue = .mark c day :: rest := by
    split <;> exact h
  have hx : exec (.tagWriteDone ok) s = .next (tagWrite ok s) := rfl
  simp only [hx, tagWrite, h, nextTransfer_eq hq]

theorem exec_tagWriteDone_volume {v : Nat} (h : s.ink.tagQueue = .volume c v :: rest) (ok : Bool) :
    exec (.tagWriteDone ok) s = .next (beginTransfer rest s) := by
  have hx : exec (.tagWriteDone ok) s = .next (tagWrite ok s) := rfl
  simp only [hx, tagWrite, h, nextTransfer_eq h]

section timeout

variable {n : Nat} (hd : s.ink.tagDeadline = some n) (hn : n ≤ s.clock.now)

include hd hn

theorem exec_tagTransferTimeout_read (h : s.ink.tagQueue = .read c :: rest) : exec .tagTransferTimeout s =
    .next (finish (firstReadOver c (readOutcome c none (beginTransfer rest s)))) := by
  have hx : exec .tagTransferTimeout s = .next (tagTimeout s) := rfl
  simp only [hx, tagTimeout, hd, h, timeTo_past hn, endRead, nextTransfer_eq h]

theorem exec_tagTransferTimeout_write
    (h : (∃ day, s.ink.tagQueue = .mark c day :: rest) ∨ ∃ v, s.ink.tagQueue = .volume c v :: rest) :
    exec .tagTransferTimeout s = .next (refreshPanel (beginTransfer rest s)) := by
  have hx : exec .tagTransferTimeout s = .next (tagTimeout s) := rfl
  obtain ⟨_, h⟩ | ⟨_, h⟩ := h <;> simp only [hx, tagTimeout, hd, h, timeTo_past hn, nextTransfer_eq h]

end timeout

/-- A marking write that succeeded leaves the cartridge OPENED on its day, and nothing else of a channel (R31). -/
theorem exec_tagWriteDone_marks {day : Nat} (h : s.ink.tagQueue = .mark c day :: rest) :
    ∃ t, exec (.tagWriteDone true) s = .next t ∧ t.ink.tagQueue = rest ∧
      (∀ k, (s.channel c).cartridge = some k →
        (t.channel c).cartridge = some { k with opened := true, openedDay := day }) ∧
      ∀ d : Chan, d ≠ c → t.channel d = s.channel d := by
  refine ⟨_, exec_tagWriteDone_mark h true, rfl, fun k hk => ?_, fun d hd => ?_⟩
  · rw [beginTransfer_channel, if_pos rfl, mapChannel_same, marked, hk]
    rfl
  · rw [beginTransfer_channel, if_pos rfl, mapChannel_other hd]

/-- What a read leaves (R29, R30): a failed one as out of range, one in range by the steps of the judgement. -/
theorem readOutcome_judges {x : TagData} (h : tagInRange x = true) (c : Chan) (s : State) :
    ∃ k : Cartridge, k = cartridgeFrom s.ink.memory x ∧ ((readOutcome c (some x) s).channel c).cartridge = some k ∧
      ((readOutcome c (some x) s).channel c).slot = judgeCartridge s.clock.day (s.channel c).colourCode k := by
  rw [readOutcome_inRange h]
  obtain ⟨hs, hk⟩ := applyJudgement_leaves true c (cartridgeFrom s.ink.memory x)
    (judgeCartridge s.clock.day (s.channel c).colourCode (cartridgeFrom s.ink.memory x)) s
  exact ⟨_, rfl, hk, hs⟩

/-- Settles O42: each event by the slot's state and the transfer under way, and a read by the steps of the judgement. -/
theorem cartridgeEvents : Obligations.CartridgeEvents := by
  unfold Obligations.CartridgeEvents
  refine ⟨fun c s => ⟨fun h => ⟨exec_cartridgeInserted h, ?_⟩, fun h => ?_, fun h => ?_, fun rest h =>
      ⟨exec_tagReadDone h, fun n hd hn => exec_tagTransferTimeout_read hd hn h⟩⟩,
    fun c rest s => ⟨fun day h => ⟨exec_tagWriteDone_mark h false, exec_tagWriteDone_marks h⟩,
      fun v ok h => exec_tagWriteDone_volume h ok, fun n h hd hn => exec_tagTransferTimeout_write hd hn h,
      refuseTag_leaves c s, fun x => ⟨fun h => ?_, fun h => ?_⟩⟩⟩
  · rw [exec_cartridgeRemoved, removeCartridge_empty h]
    rfl
  · rw [exec_cartridgeRemoved, removeCartridge_reading h]
    rfl
  · rw [exec_cartridgeRemoved, removeCartridge_judged h]
    rfl
  · rw [readOutcome_outOfRange h]
    exact refuseTag_leaves c s
  · obtain ⟨k, rfl, hk, hs⟩ := readOutcome_judges h c s
    rw [hs]
    exact ⟨_, hk, rfl, rfl, rfl, rfl, rfl, rfl, fun hm => rememberedVolume_unknown hm _,
      fun e he => rememberedVolume_known he _, fun hc => judgeCartridge_colour hc,
      fun hc he => judgeCartridge_expired hc ((expired_iff _ _).mpr he),
      fun hc he hr => (judgeCartridge_fresh hc (mt (expired_iff _ _).mp he)).trans (if_pos hr),
      fun hc he hr => (judgeCartridge_fresh hc (mt (expired_iff _ _).mp he)).trans (if_neg hr)⟩

end Sys2Proof.Machine
end

section
/-! PROOFS. Power-on: what each of its stages leaves, and the state that it ends in (R203 to R205). -/

namespace Sys2Proof.Machine

open Sys2Proof

variable {r s t : State}

/-! ## What the last stages of power-on leave -/

/-- What the stages of power-on after the roll's record leave: all but start-up, the ink, the roll-low and early-full
flags, the lines, the notices, the send list, the silence timer, the spectro conversation, the refill markers and the roll
checkpoint. -/
structure Restarted (s t : State) : Prop where
  clock : t.clock = s.clock
  inputs : t.inputs = s.inputs
  queue : t.queue = s.queue
  meter : t.meter = s.meter
  stations : t.media.stations = s.media.stations
  rollState : t.media.rollState = s.media.rollState
  roll : t.media.roll = s.media.roll
  sets : t.colour.sets = s.colour.sets
  registry : t.registry = s.registry
  log : t.cost.log = s.cost.log
  routing : t.engine.haltRouting = s.engine.haltRouting
  level : t.control.level = s.control.level
  received : t.control.receiveList = s.control.receiveList
  links : t.links = s.links
  marker : t.store.openPrint = s.store.openPrint

theorem Restarted.refl (s : State) : Restarted s s := by constructor <;> rfl

theorem Restarted.trans (h : Restarted r s) (g : Restarted s t) : Restarted r t where
  clock := g.clock.trans h.clock
  inputs := g.inputs.trans h.inputs
  queue := g.queue.trans h.queue
  meter := g.meter.trans h.meter
  stations := g.stations.trans h.stations
  rollState := g.rollState.trans h.rollState
  roll := g.roll.trans h.roll
  sets := g.sets.trans h.sets
  registry := g.registry.trans h.registry
  log := g.log.trans h.log
  routing := g.routing.trans h.routing
  level := g.level.trans h.level
  received := g.received.trans h.received
  links := g.links.trans h.links
  marker := g.marker.trans h.marker

theorem foldl_restarted {α : Type} (f : State → α → State) (hf : ∀ s a, Restarted s (f s a)) (l : List α) (s : State) :
    Restarted s (l.foldl f s) := by
  induction l generalizing s with
  | nil => exact .refl s
  | cons a l ih => exact (hf s a).trans (ih _)

theorem raise_restarted (b : NoticeBody) (s : State) : Restarted s (raise b s) := by
  unfold raise
  split
  · constructor <;> rfl
  · split <;> constructor <;> rfl

theorem haltUpdate_restarted (s : State) : Restarted s (haltUpdate s) := by
  have hs : Restarted s (silenceStart (s.mapEngine fun e => { e with halt := s.haltLevel })) := by
    constructor <;> rfl
  unfold haltUpdate
  dsimp only
  split
  · exact .refl s
  · exact hs.trans (raise_restarted _ _)

theorem reconsider_restarted (c : Chan) (s : State) : Restarted s (reconsider c s) := by
  obtain e | ⟨x, e⟩ | ⟨job, e⟩ := reconsider_cases c s <;> rw [e] <;> constructor <;> rfl

theorem examineSlot_restarted (s : State) (c : Chan) : Restarted s (examineSlot s c) := by
  unfold examineSlot
  split
  · constructor <;> rfl
  · exact reconsider_restarted c s

theorem workOutIndication_restarted (s : State) (c : Chan) : Restarted s (workOutIndication s c) := by
  constructor <;> rfl

theorem awaitReads_restarted (s : State) : Restarted s (awaitReads s) := by
  have hu : ∀ u : StartUp, Restarted s { s with startUp := u } := fun u => by constructor <;> rfl
  unfold awaitReads
  dsimp only
  split
  · exact (hu _).trans (haltUpdate_restarted _)
  · exact hu _

theorem autoCalibrate_restarted (s : State) : Restarted s (autoCalibrate s) := by
  unfold autoCalibrate
  split <;> constructor <;> rfl

theorem workOutFlags_restarted (s : State) : Restarted s (workOutFlags s) := by constructor <;> rfl

theorem refreshPanel_restarted (s : State) : Restarted s (refreshPanel s) := by constructor <;> rfl

/-! ## The roll (R205) -/

/-- The end of the roll while no print is queued and nothing is listed or moves: the roll record alone, its checkpoint,
and what is told. -/
theorem rollEnds_idle (hq : s.queue = .initial) {x : RollState} {g : RollGeometry}
    (hm : s.media = { MediaTransport.initial with rollState := x, roll := g }) :
    rollEnds s = haltUpdate (rollNotice .ended (saveRoll { s with media := { MediaTransport.initial with
      rollState := .ended, roll := { g with tail := g.head + Config.endSensorOffset }, lowFlag := .sent } })) := by
  obtain ⟨⟩ := s
  cases hq
  cases hm
  rfl

theorem rollTold_leaves (s : State) : Restarted s (haltUpdate (rollNotice .ended (saveRoll s))) ∧
    Aside s (haltUpdate (rollNotice .ended (saveRoll s))) := by
  have hs : Restarted s (saveRoll s) ∧ Aside s (saveRoll s) := by
    unfold saveRoll
    split
    · exact ⟨.refl s, .refl s⟩
    · exact ⟨by constructor <;> rfl, rfl, rfl⟩
  exact ⟨hs.1.trans ((raise_restarted _ _).trans (haltUpdate_restarted _)),
    hs.2.trans ((raise_aside _ _).trans (haltUpdate_aside _))⟩

theorem rollEnds_leaves (hq : s.queue = .initial) {x : RollState} {g : RollGeometry}
    (hm : s.media = { MediaTransport.initial with rollState := x, roll := g }) :
    Restarted { s with media := { MediaTransport.initial with
      rollState := .ended, roll := { g with tail := g.head + Config.endSensorOffset } } } (rollEnds s) ∧
    Aside s (rollEnds s) := by
  rw [rollEnds_idle hq hm]
  obtain ⟨hr, ha⟩ := rollTold_leaves { s with media := { MediaTransport.initial with
    rollState := .ended, roll := { g with tail := g.head + Config.endSensorOffset }, lowFlag := .sent } }
  exact ⟨Restarted.trans (by constructor <;> rfl) hr, ha.queue, ha.ink⟩

/-- The roll state and the roll record that power-on works out: none without a checkpoint that counts, else UNVERIFIED,
or ENDED a sensor's distance past H where the sensor shows no media. -/
def restoredRoll (s : State) : RollState × RollGeometry :=
  match restorableRoll s with
  | none => (.none, .absent)
  | some g =>
    if s.inputs.rollEndMedia then (.unverified, g)
    else (.ended, { g with tail := g.head + Config.endSensorOffset })

/-- The state with that roll, and nothing listed, fed or moving. -/
def withRoll (s : State) : State :=
  { s with media := { MediaTransport.initial with rollState := (restoredRoll s).1, roll := (restoredRoll s).2 } }

theorem restoredRoll_none (h : restorableRoll s = none) : restoredRoll s = (.none, .absent) := by rw [restoredRoll, h]

theorem restoredRoll_some {g : RollGeometry} (h : restorableRoll s = some g) : restoredRoll s =
    if s.inputs.rollEndMedia then (.unverified, g)
    else (.ended, { g with tail := g.head + Config.endSensorOffset }) := by
  rw [restoredRoll, h]

/-- The roll comes back as worked out, and the ink stays (R205). -/
theorem restoreRoll_leaves (hq : s.queue = .initial) (hm : s.media = .initial) :
    Restarted (withRoll s) (restoreRoll s) ∧ Aside s (restoreRoll s) := by
  unfold restoreRoll
  split
  · rename_i h
    refine ⟨?_, .refl s⟩
    constructor <;> simp only [withRoll, restoredRoll_none h, hm] <;> rfl
  · rename_i g h
    dsimp only
    split
    · rename_i he
      have he : s.inputs.rollEndMedia = true := he
      refine ⟨?_, rfl, rfl⟩
      constructor <;> simp only [withRoll, restoredRoll_some h, he, hm, State.mapMedia] <;> rfl
    · rename_i he
      have he : s.inputs.rollEndMedia = false := by simpa using he
      obtain ⟨hr, ha⟩ := rollEnds_leaves (s := s.mapMedia fun m => { m with rollState := .unverified, roll := g })
        (x := .unverified) (g := g) hq (by simp only [State.mapMedia, hm])
      refine ⟨Restarted.trans ?_ hr, ha.queue, ha.ink⟩
      constructor <;> simp only [withRoll, restoredRoll_some h, he] <;> rfl

/-! ## The slots -/

theorem awaitReads_aside (s : State) : Aside s (awaitReads s) := by
  have hu : ∀ u : StartUp, Aside s { s with startUp := u } := fun u => ⟨rfl, rfl⟩
  unfold awaitReads
  dsimp only
  split
  · exact (hu _).trans (haltUpdate_aside _)
  · exact hu _

theorem autoCalibrate_aside (s : State) : Aside s (autoCalibrate s) := by
  unfold autoCalibrate
  split <;> exact ⟨rfl, rfl⟩

/-- What the end of power-on does after the slots have been examined leaves the ink alone. -/
theorem lastStages_aside (s : State) : Aside s (autoCalibrate (refreshPanel (awaitReads s))) := by
  have hp : ∀ u : State, Aside u (refreshPanel u) := fun u => ⟨rfl, rfl⟩
  exact (awaitReads_aside s).trans ((hp _).trans (autoCalibrate_aside _))

theorem lastStages_restarted (s : State) : Restarted s (autoCalibrate (refreshPanel (awaitReads s))) :=
  (awaitReads_restarted s).trans ((refreshPanel_restarted _).trans (autoCalibrate_restarted _))

theorem Aside.stock (h : Aside s t) : StockKept s t := .ofChannels (channel_of_ink h.ink)

/-- The slots of a list, examined: one with a cartridge is READING, and the rest of each channel's stock stays. -/
structure Examined (l : List Chan) (s t : State) : Prop extends LoadKept s t where
  slot : ∀ d, (t.channel d).slot = if d ∈ l ∧ s.inputs.cartridge[d] then .reading else (s.channel d).slot

theorem StockKept.examined (h : StockKept s t) : Examined [] s t := ⟨h.toLoadKept, fun d => by simpa using h.slot d⟩

theorem examineSlot_examined (s : State) (c : Chan) : Examined [c] s (examineSlot s c) := by
  unfold examineSlot
  split
  · rename_i hc
    have hd : ∀ d, (queueTransfer (.read c) (s.mapChannel c fun ch => { ch with slot := .reading })).channel d =
        if d = c then { s.channel c with slot := .reading } else s.channel d := fun d => by
      rw [queueTransfer_channel, mapChannel_channel]
    refine ⟨⟨?_, ?_, ?_, ?_⟩, ?_⟩ <;> intro d <;> rw [hd] <;> by_cases h : d = c <;> simp [h, hc]
  · rename_i hc
    have h := reconsider_stock c s
    refine ⟨h.toLoadKept, fun d => ?_⟩
    rw [h.slot, if_neg]
    rintro ⟨hm, hi⟩
    obtain rfl := List.mem_singleton.mp hm
    exact hc hi

theorem Examined.trans {l m : List Chan} (h : Examined l r s) (hi : s.inputs = r.inputs) (g : Examined m s t) :
    Examined (l ++ m) r t := by
  refine ⟨h.toLoadKept.trans g.toLoadKept, fun d => ?_⟩
  rw [g.slot, h.slot, hi]
  by_cases hc : r.inputs.cartridge[d] = true <;> by_cases hm : d ∈ m <;> simp [hc, hm]

theorem Examined.stock {l : List Chan} (h : Examined l r s) (g : StockKept s t) : Examined l r t :=
  ⟨h.toLoadKept.trans g.toLoadKept, fun d => (g.slot d).trans (h.slot d)⟩

theorem foldl_examineSlot (l : List Chan) (s : State) : Examined l s (l.foldl examineSlot s) := by
  induction l generalizing s with
  | nil => exact (StockKept.refl s).examined
  | cons c l ih => exact (examineSlot_examined s c).trans (examineSlot_restarted s c).inputs (ih _)

theorem foldl_workOutIndication (l : List Chan) (s : State) : StockKept s (l.foldl workOutIndication s) := by
  induction l generalizing s with
  | nil => exact .refl s
  | cons c l ih => exact (mapChannel_stock c (fun ch => { ch with indication := ch.worked }) s).trans (ih _)

/-! ## The open-print marker (R204) -/

theorem reconcileMarker_none (h : s.store.openPrint = none) : reconcileMarker s = s := by
  rw [reconcileMarker, h]

/-- What the reconciliation leaves: all but the ink, the entries, the cost log and the ink checkpoint; and no marker. -/
structure Reconciled (s t : State) : Prop where
  clock : t.clock = s.clock
  inputs : t.inputs = s.inputs
  queue : t.queue = s.queue
  meter : t.meter = s.meter
  media : t.media = s.media
  colour : t.colour = s.colour
  closedIds : t.registry.closedIds = s.registry.closedIds
  engine : t.engine = s.engine
  control : t.control = s.control
  links : t.links = s.links
  checkpoint : t.store.roll = s.store.roll
  marker : t.store.openPrint = none

theorem reconcileMarker_leaves (s : State) : Reconciled s (reconcileMarker s) := by
  cases h : s.store.openPrint with
  | none =>
    rw [reconcileMarker_none h]
    exact ⟨rfl, rfl, rfl, rfl, rfl, rfl, rfl, rfl, rfl, rfl, rfl, h⟩
  | some m =>
    rw [reconcileMarker, h]
    dsimp only
    split <;> constructor <;> simp [saveInk, appendRecord]

section marker

variable {m : OpenMarker} (h : s.store.openPrint = some m)

include h

/-- Each sub-tank gives the print's reservation, or what it holds. -/
theorem reconcileMarker_channel (c : Chan) :
    (reconcileMarker s).channel c = (s.channel c).afterDraw (m.amount (s.channel c) c) := by
  rw [reconcileMarker, h]
  dsimp only
  split <;> simp [State.channel, saveInk, appendRecord]

theorem reconcileMarker_log : (reconcileMarker s).cost.log =
    s.cost.log ++ [reconcileRecord m s.ink.channels (nextSequence s.cost.sequence)] := by
  rw [reconcileMarker, h]
  dsimp only
  split <;> simp [saveInk, appendRecord]

/-- The print's edition, if it has one, counts the spoil and takes the cost. -/
theorem reconcileMarker_table : (reconcileMarker s).registry.table = s.registry.table.map fun e =>
    if m.editionId = some e.id then
      { e.addCost .spoiled (reconcileRecord m s.ink.channels (nextSequence s.cost.sequence)).total with
        spoiled := rise16 e.spoiled }
    else e := by
  rw [reconcileMarker, h]
  dsimp only
  split
  · rename_i id hid
    refine List.map_congr_left fun e _ => ?_
    by_cases he : e.id = id
    · simp [he, hid]
    · simp [he, hid, Ne.symm he]
  · rename_i hn
    simp [hn, appendRecord, saveInk]

end marker

/-- A draw of no more than the parcels hold takes it all. -/
theorem drawFrom_enough {n : Nat} {parcels : List Parcel} (h : n ≤ (parcels.map (·.volume)).sum) :
    (drawFrom n parcels).excess = 0 := by
  induction parcels generalizing n with
  | nil => simpa [drawFrom] using h
  | cons p ps ih =>
    unfold drawFrom
    split
    · rfl
    · split
      · rfl
      · exact ih (by simp only [List.map_cons, List.sum_cons] at h; omega)

/-- A draw of no more than the level falls from the level. -/
theorem afterDraw_level {ch : Channel} (l : ParcelLaw ch.level ch.parcels) {n : Nat} (h : n ≤ ch.level) :
    (ch.afterDraw n).level = ch.level - n := by
  simp [Channel.afterDraw, drawFrom_enough (l.sum ▸ h)]

/-! ## Power lost and returned -/

theorem powerVolatile_channel (levels : SensorLevels) (s : State) (c : Chan) :
    (powerVolatile levels s).channel c = restoredChannel (s.channel c) s.store.ink[c] := by
  simp [powerVolatile, State.channel]

/-- The state in which power-on leaves the volatile values, the stored tables and the marker. -/
def reconciled (levels : SensorLevels) (s : State) : State := reconcileMarker (powerVolatile levels s)

theorem reconciled_leaves (levels : SensorLevels) (s : State) :
    Reconciled (powerVolatile levels s) (reconciled levels s) := reconcileMarker_leaves _

theorem reconciled_empty (levels : SensorLevels) (s : State) (c : Chan) :
    ((reconciled levels s).channel c).slot = .empty ∧
      ((reconciled levels s).channel c).cartridge = none := by
  cases h : (powerVolatile levels s).store.openPrint with
  | none =>
    rw [reconciled, reconcileMarker_none h, powerVolatile_channel]
    exact ⟨rfl, rfl⟩
  | some m =>
    rw [reconciled, reconcileMarker_channel h, powerVolatile_channel]
    exact ⟨rfl, rfl⟩

/-- With no print open the ink, the log and the entries are as the store has them. -/
theorem reconciled_closed (levels : SensorLevels) (h : s.store.openPrint = none) :
    (∀ c : Chan, ((reconciled levels s).channel c).level = (s.store.ink[c]).level ∧
      ((reconciled levels s).channel c).parcels = (s.store.ink[c]).parcels ∧
      ((reconciled levels s).channel c).lastPrice = (s.store.ink[c]).lastPrice) ∧
    (reconciled levels s).cost.log = s.cost.log ∧
    (reconciled levels s).registry.table =
      s.registry.table.map fun e => { e with inFlight := 0, apInFlight := 0 } := by
  have hv : (powerVolatile levels s).store.openPrint = none := h
  rw [reconciled, reconcileMarker_none hv]
  refine ⟨fun c => ?_, rfl, rfl⟩
  rw [powerVolatile_channel]
  exact ⟨rfl, rfl, rfl⟩

/-- With a print open its ink is drawn, and its record is in the log and in its edition's counts. -/
theorem reconciled_open (levels : SensorLevels) {m : OpenMarker} (h : s.store.openPrint = some m)
    (l : ∀ c : Chan, ParcelLaw (s.store.ink[c]).level (s.store.ink[c]).parcels) :
    let drawn := fun c : Chan => min m.reservation[c] (s.store.ink[c]).level
    (∀ c : Chan, ((reconciled levels s).channel c).level = (s.store.ink[c]).level - drawn c ∧
      ((reconciled levels s).channel c).parcels = (drawFrom (drawn c) (s.store.ink[c]).parcels).parcels) ∧
    ∃ r, (reconciled levels s).cost.log = s.cost.log ++ [r] ∧ r.sequence = nextSequence s.cost.sequence ∧
      r.handle = m.handle ∧ r.jobTag = m.jobTag ∧ r.outcome = .spoiled ∧ r.estimated = true ∧ r.cutNone = true ∧
      r.number = none ∧ (∀ c : Chan, r.consumed[c] = drawn c) ∧
      (reconciled levels s).registry.table = s.registry.table.map fun e =>
        if m.editionId = some e.id then
          { e with inFlight := 0, apInFlight := 0, spoiled := min 65535 (e.spoiled + 1)
                   wasteCost := min (2 ^ 64 - 1) (e.wasteCost + r.total) }
        else { e with inFlight := 0, apInFlight := 0 } := by
  have hv : (powerVolatile levels s).store.openPrint = some m := h
  refine ⟨fun c => ?_, _, reconcileMarker_log hv, rfl, rfl, rfl, rfl, rfl, rfl, rfl, fun c => ?_, ?_⟩
  · rw [reconciled, reconcileMarker_channel hv, powerVolatile_channel]
    exact ⟨afterDraw_level (l c) (Nat.min_le_right _ _), rfl⟩
  · simp [reconcileRecord, OpenMarker.amount, powerVolatile, restoredChannel]
  · refine (reconcileMarker_table hv).trans ?_
    change (s.registry.table.map restoredEdition).map _ = _
    rw [List.map_map]
    rfl

/-! ## From the marker's reconciliation to the end -/

/-- All stages after the marker's reconciliation. -/
def restarted (s : State) : State :=
  autoCalibrate (refreshPanel (awaitReads
    (channelList.foldl workOutIndication (channelList.foldl examineSlot (workOutFlags (restoreRoll s))))))

theorem exec_powerOn (levels : SensorLevels) (s : State) :
    exec (.powerOn levels) s = .next (restarted (reconciled levels s)) := rfl

theorem restarted_leaves (hq : s.queue = .initial) (hm : s.media = .initial) :
    Restarted (withRoll s) (restarted s) ∧ Examined channelList s (restarted s) := by
  obtain ⟨hr, ha⟩ := restoreRoll_leaves hq hm
  have hf := hr.trans (workOutFlags_restarted _)
  have hi : Aside s (workOutFlags (restoreRoll s)) := ⟨ha.queue, ha.ink⟩
  unfold restarted
  generalize workOutFlags (restoreRoll s) = u at hf hi ⊢
  have hs : Restarted u (channelList.foldl workOutIndication (channelList.foldl examineSlot u)) :=
    (foldl_restarted _ examineSlot_restarted _ _).trans (foldl_restarted _ workOutIndication_restarted _ _)
  have he : Examined channelList s (channelList.foldl workOutIndication (channelList.foldl examineSlot u)) :=
    (hi.stock.examined.trans hf.inputs (foldl_examineSlot channelList u)).stock (foldl_workOutIndication _ _)
  exact ⟨hf.trans (hs.trans (lastStages_restarted _)), he.stock (lastStages_aside _).stock⟩

/-- The roll comes back from its checkpoint where the sensor shows it, and the checkpoint is of no ended roll (R205). -/
theorem reconciled_roll (levels : SensorLevels) {g : RollSaved} (h : s.store.roll = some g) (hs : g.state ≠ .ended)
    (hp : levels.rollPresent = true) : restoredRoll (reconciled levels s) =
      if levels.rollEndMedia then (.unverified, g.roll)
      else (.ended, { g.roll with tail := g.roll.head + Config.endSensorOffset }) := by
  have hb := reconciled_leaves levels s
  have hi : (reconciled levels s).inputs = levels := hb.inputs
  have hk : (reconciled levels s).store.roll = some g := hb.checkpoint.trans h
  have hr : restorableRoll (reconciled levels s) = some g.roll := by
    rw [restorableRoll, hk, hi]
    exact if_pos ⟨hp, hs⟩
  rw [restoredRoll_some hr, hi]

theorem reconciled_noRoll (levels : SensorLevels) (h : s.store.roll = none ∨
    (∃ g, s.store.roll = some g ∧ g.state = .ended) ∨ levels.rollPresent = false) :
    restoredRoll (reconciled levels s) = (.none, .absent) := by
  have hb := reconciled_leaves levels s
  have hi : (reconciled levels s).inputs = levels := hb.inputs
  have hk : (reconciled levels s).store.roll = s.store.roll := hb.checkpoint
  refine restoredRoll_none ?_
  rw [restorableRoll, hk, hi]
  split
  · rfl
  · rename_i g hg
    refine if_neg fun ⟨hp, hs⟩ => ?_
    obtain h | ⟨g', hg', h⟩ | h := h
    · simp [h] at hg
    · rw [hg] at hg'
      cases hg'
      exact hs h
    · simp [h] at hp

/-- Settles O32: what the marker's reconciliation leaves, and what of it the later stages do. -/
theorem powerOnRestores : Obligations.PowerOnRestores := by
  unfold Obligations.PowerOnRestores
  intro levels s l
  have hb := reconciled_leaves levels s
  have hempty := reconciled_empty levels s
  have hclosed := fun h => reconciled_closed (s := s) levels h
  have hopen := fun m h => reconciled_open (s := s) (m := m) levels h l
  have hroll := fun g hg => reconciled_roll (s := s) (g := g) levels hg
  have hnoRoll := fun h => reconciled_noRoll (s := s) levels h
  refine ⟨_, exec_powerOn levels s, ?_⟩
  generalize reconciled levels s = b at *
  obtain ⟨hr, hx⟩ := restarted_leaves (s := b) hb.queue hb.media
  refine ⟨hr.queue.trans hb.queue, hr.stations, hr.level.trans (congrArg (·.level) hb.control),
    hr.received.trans (congrArg (·.receiveList) hb.control), hr.links.trans hb.links, hr.inputs.trans hb.inputs,
    congrArg (·.day) (hr.clock.trans hb.clock), fun c => ⟨?_, ?_, ?_⟩, hr.sets.trans (congrArg (·.sets) hb.colour),
    (congrArg (·.closedIds) hr.registry).trans hb.closedIds, hr.routing.trans (congrArg (·.haltRouting) hb.engine),
    hr.marker.trans hb.marker, fun h => ?_, fun m h => ?_, fun g hg hs hp => ?_, fun h => ?_⟩
  · rw [hr.meter.trans hb.meter]
    simp [powerVolatile]
  · rw [hx.cartridge, (hempty c).2]
  · have hi : b.inputs = levels := hb.inputs
    rw [hx.slot, (hempty c).1, hi]
    simp only [mem_channelList c, true_and]
  · simp only [hx.level, hx.parcels, hx.lastPrice, hr.log, hr.registry]
    exact hclosed h
  · simp only [hx.level, hx.parcels, hr.log, hr.registry]
    exact hopen m h
  · rw [hr.rollState, hr.roll, withRoll, hroll g hg hs hp]
    exact ⟨fun hm => by simp [hm], fun hm => by simp [hm]⟩
  · rw [hr.rollState, withRoll, hnoRoll h]

end Sys2Proof.Machine
end

section
/-! PROOFS. The ink meter: the law of the residues, the row of a report, the draw, one channel of a swath report, and the
requests that write the meter's tables (R50 to R58). -/

namespace Sys2Proof.Machine

open Sys2Proof

variable {s t : State}

/-! ## The residues -/

/-- Settles O5: the residues' law is one of the five that every command keeps. -/
theorem residueLawKept : Obligations.ResidueLawKept := by
  unfold Obligations.ResidueLawKept
  intro s t l h
  obtain ⟨q, k⟩ := lawful_of_step h
  exact k.laws.residues l

/-! ## The row of a report -/

theorem rowFor_manual {m : InkMeter} (h : m.manualOn = true) (t : Int) : m.rowFor t = m.manualRow := by
  simp [InkMeter.rowFor, h]

/-- An invalid temperature takes the last row, or row 12 (R50). -/
theorem rowFor_invalid {m : InkMeter} (h : m.manualOn = false) :
    m.rowFor Config.invalidTemperature = m.lastRow.getD 12 := by
  simp [InkMeter.rowFor, h]

theorem rowFor_valid {m : InkMeter} {t : Int} (h : m.manualOn = false) (ht : t ≠ Config.invalidTemperature) :
    m.rowFor t = rowOfTemperature t := by
  simp [InkMeter.rowFor, h, ht]

/-- Settles O49: the three sources of the row, and the clamp at either end of the table. -/
theorem rowRule : Obligations.RowRule := by
  unfold Obligations.RowRule
  intro m t
  refine ⟨fun hm => rowFor_manual hm t, fun hm => ⟨fun ht => ?_, fun ht => ?_⟩⟩
  · subst ht
    exact ⟨fun r hr => (rowFor_invalid hm).trans (by rw [hr]; rfl), fun hr => (rowFor_invalid hm).trans (by rw [hr]; rfl)⟩
  · rw [rowFor_valid hm ht]
    simp only [rowOfTemperature]
    refine ⟨?_, ?_, ?_⟩ <;> omega

/-! ## The draw -/

/-- What a draw takes in all when it has emptied the given parcels before (R57). -/
def Drawn.after (gone : List Parcel) (d : Drawn) : Drawn :=
  { d with
    cost := (gone.map fun q => q.volume * q.price).sum + d.cost
    removed := d.removed.or (gone.getLast?.map (·.price))
    last := d.last.or (gone.getLast?.map (·.price)) }

theorem drawFrom_zero (ps : List Parcel) : drawFrom 0 ps = ⟨ps, 0, none, none, 0⟩ := by
  cases ps <;> simp [drawFrom]

/-- A draw of less than the oldest parcel holds leaves the rest of it. -/
theorem drawFrom_part {v : Nat} {p : Parcel} (h0 : 0 < v) (hp : v < p.volume) (ps : List Parcel) :
    drawFrom v (p :: ps) = ⟨{ p with volume := p.volume - v } :: ps, v * p.price, none, some p.price, 0⟩ := by
  simp [drawFrom, Nat.ne_of_gt h0, hp]

/-- A draw of at least what the oldest parcel holds empties it and goes on to the next. -/
theorem drawFrom_whole {p : Parcel} (hp : 0 < p.volume) (n : Nat) (ps : List Parcel) :
    drawFrom (p.volume + n) (p :: ps) = (drawFrom n ps).after [p] := by
  cases hr : (drawFrom n ps).removed <;> cases hl : (drawFrom n ps).last <;>
    simp [drawFrom, Nat.ne_of_gt hp, Drawn.after, hr, hl]

theorem Drawn.after_cons (p : Parcel) (gone : List Parcel) (d : Drawn) :
    (d.after gone).after [p] = d.after (p :: gone) := by
  cases h : gone.getLast? <;> simp [Drawn.after, List.getLast?_cons, h, Nat.add_assoc]

/-- A draw that goes beyond the first parcels empties them one by one (R57). -/
theorem drawFrom_beyond {gone : List Parcel} (h : ∀ p ∈ gone, 0 < p.volume) (n : Nat) (rest : List Parcel) :
    drawFrom ((gone.map (·.volume)).sum + n) (gone ++ rest) = (drawFrom n rest).after gone := by
  induction gone with
  | nil => simp [Drawn.after]
  | cons p gone ih =>
    obtain ⟨hp, hg⟩ := List.forall_mem_cons.mp h
    rw [List.map_cons, List.sum_cons, Nat.add_assoc, List.cons_append, drawFrom_whole hp, ih hg, Drawn.after_cons]

/-- Settles O47: the parcels that the draw goes beyond, and what it then finds: no parcel, one larger than the rest of the
volume, or no volume left to draw. -/
theorem drawOldestFirst : Obligations.DrawOldestFirst := by
  unfold Obligations.DrawOldestFirst
  intro n parcels hv
  refine ⟨fun hn => ?_, fun gone p rest v he h0 hp hn => ?_, fun gone rest he hn => ?_⟩
  · obtain ⟨k, rfl⟩ := Nat.exists_eq_add_of_le (Nat.le_of_lt hn)
    have h := drawFrom_beyond hv k []
    rw [List.append_nil] at h
    rw [h]
    simp [drawFrom, Drawn.after]
  · subst he hn
    rw [drawFrom_beyond (fun q hq => hv q (List.mem_append_left _ hq)), drawFrom_part h0 hp]
    simp [Drawn.after]
  · subst he hn
    have h := drawFrom_beyond (fun q hq => hv q (List.mem_append_left _ hq)) 0 rest
    rw [Nat.add_zero] at h
    rw [h, drawFrom_zero]
    simp [Drawn.after]

/-! ## One channel of a swath report -/

/-- A channel's trimmed total for a report (R55, step 2). -/
def State.metered (s : State) (row : DropRow) (r : SwathReport) (c : Chan) : Nat :=
  trimmedTotal row r.drops[c] s.meter.trims[c] s.meter.residues[c]

/-- The debit and the new residue are the total, parted (R55, step 3). -/
theorem debitOf_add_residueOf (total : Nat) : Config.unitsPerNl * debitOf total + residueOf total = total :=
  Nat.div_add_mod total Config.unitsPerNl

theorem residueOf_lt (total : Nat) : residueOf total < Config.unitsPerNl := Nat.mod_lt _ (by decide)

section metered

variable (h : Nat) (row : DropRow) (r : SwathReport) (s : State) (c : Chan)

theorem meterChannel_residue :
    (meterChannel h row r s c).meter.residues[c] = residueOf (s.metered row r c) := by
  simp [meterChannel, State.metered]

theorem meterChannel_residue_ne {d : Chan} (hd : d ≠ c) :
    (meterChannel h row r s c).meter.residues[d] = s.meter.residues[d] := by
  have hv : c.val ≠ d.val := fun e => hd (Fin.ext e).symm
  simp [meterChannel, hv]

theorem meterChannel_channel :
    (meterChannel h row r s c).channel c = (s.channel c).afterDraw (debitOf (s.metered row r c)) :=
  (mapChannel_channel _ c _ c).trans (if_pos rfl)

theorem meterChannel_channel_ne {d : Chan} (hd : d ≠ c) : (meterChannel h row r s c).channel d = s.channel d :=
  (mapChannel_channel _ c _ d).trans (if_neg hd)

theorem meterChannel_findPrint {p : PrintRecord} (hp : s.findPrint h = some p) :
    (meterChannel h row r s c).findPrint h =
      some (chargePrint c (s.channel c) (debitOf (s.metered row r c)) p) :=
  findPrint_mapPrint (s := setResidue c (residueOf (s.metered row r c)) s)
    (chargePrint c (s.channel c) (debitOf (s.metered row r c))) (fun _ => rfl) hp

end metered

theorem chargePrint_charges (c : Chan) (ch : Channel) (debit : Nat) (p : PrintRecord) :
    (chargePrint c ch debit p).consumed[c] = p.consumed[c] + debit ∧
      (chargePrint c ch debit p).reservation[c] = p.reservation[c] - min p.reservation[c] debit := by
  simp [chargePrint]

/-! ## The requests that write the meter's tables -/

/-- SERVICE may make every request (R182, R187). -/
theorem request_service (h : s.control.level = .service) (tag kind : Nat) (body : State → State) :
    request tag kind .service body s = body s := by
  rw [request, h]
  rfl

theorem exec_trimSet (h : s.control.level = .service) (tag channel trim : Nat) :
    exec (.trimSet tag channel trim) s = .next (trimRequest tag channel trim s) :=
  congrArg Host.Outcome.next (request_service h ..)

theorem exec_dropRowSet (h : s.control.level = .service) (tag row small medium large : Nat) :
    exec (.dropRowSet tag row small medium large) s = .next (dropRowRequest tag row small medium large s) :=
  congrArg Host.Outcome.next (request_service h ..)

theorem exec_manualModeSet (h : s.control.level = .service) (tag mode row : Nat) :
    exec (.manualModeSet tag mode row) s = .next (manualRequest tag mode row s) :=
  congrArg Host.Outcome.next (request_service h ..)

/-- The reply says that a trim was clamped exactly where it was out of range (R52). -/
theorem clampedTrim_ne_iff (trim : Nat) : clampedTrim trim ≠ trim ↔ trim < 3072 ∨ 5120 < trim := by
  unfold clampedTrim
  omega

theorem trimRequest_written (ha : s.active = none) (tag : Nat) (c : Chan) (trim : Nat) :
    trimRequest tag c.val trim s =
      reply tag .ok 0x1A (.trim (max 3072 (min 5120 trim)) (decide (trim < 3072 ∨ 5120 < trim)))
        { s with meter := { s.meter with trims := s.meter.trims.set c (max 3072 (min 5120 trim)) } } := by
  simp only [trimRequest, channelOf_val, ha, Option.isSome_none, Bool.false_eq_true, if_false, clampedTrim_ne_iff]
  rfl

theorem trimRequest_busy (ha : s.active.isSome = true) (tag : Nat) (c : Chan) (trim : Nat) :
    trimRequest tag c.val trim s = reply tag .busy 0x1A .none s := by
  simp only [trimRequest, channelOf_val, ha, if_true]

theorem trimRequest_range {channel : Nat} (h : 12 ≤ channel) (tag trim : Nat) (s : State) :
    trimRequest tag channel trim s = reply tag .range 0x1A .none s := by
  simp only [trimRequest, channelOf_none h]

theorem dropRowRequest_written (ha : s.active = none) (tag : Nat) (i : Fin 24) (small medium large : Nat) :
    dropRowRequest tag i.val small medium large s = reply tag .ok 0x1B (.dropRow i ⟨small, medium, large⟩)
      { s with meter := { s.meter with dropTable := s.meter.dropTable.set i ⟨small, medium, large⟩ } } := by
  simp only [dropRowRequest, boundedOf_val, ha, Option.isSome_none, Bool.false_eq_true, if_false]

theorem dropRowRequest_busy (ha : s.active.isSome = true) (tag : Nat) (i : Fin 24) (small medium large : Nat) :
    dropRowRequest tag i.val small medium large s = reply tag .busy 0x1B .none s := by
  simp only [dropRowRequest, boundedOf_val, ha, if_true]

theorem dropRowRequest_range {row : Nat} (h : 24 ≤ row) (tag small medium large : Nat) (s : State) :
    dropRowRequest tag row small medium large s = reply tag .range 0x1B .none s := by
  simp only [dropRowRequest, boundedOf_none h]

theorem manualRequest_written {mode : Nat} {on : Bool} (hm : manualModeOf mode = some on) (ha : s.active = none)
    (tag : Nat) (i : Fin 24) : manualRequest tag mode i.val s = reply tag .ok 0x1C (.manual on i)
      { s with meter := { s.meter with manualOn := on, manualRow := i } } := by
  simp only [manualRequest, hm, boundedOf_val, ha, Option.isSome_none, Bool.false_eq_true, if_false]

theorem manualRequest_busy {mode : Nat} (hm : mode < 2) (ha : s.active.isSome = true) (tag : Nat) (i : Fin 24) :
    manualRequest tag mode i.val s = reply tag .busy 0x1C .none s := by
  obtain ⟨on, ho⟩ : ∃ on, manualModeOf mode = some on := by
    match mode with
    | 0 => exact ⟨_, rfl⟩
    | 1 => exact ⟨_, rfl⟩
  simp only [manualRequest, ho, boundedOf_val, ha, if_true]

theorem manualRequest_range {mode row : Nat} (h : 2 ≤ mode ∨ 24 ≤ row) (tag : Nat) (s : State) :
    manualRequest tag mode row s = reply tag .range 0x1C .none s := by
  unfold manualRequest
  split
  · rename_i on i hm hr
    rcases h with h | h
    · obtain ⟨k, rfl⟩ := Nat.exists_eq_add_of_le' h
      cases hm
    · rw [boundedOf_none h] at hr
      cases hr
  · rfl

/-- Settles O23: each request's tests in their order. -/
theorem meterTableWrites : Obligations.MeterTableWrites := by
  unfold Obligations.MeterTableWrites
  intro tag s hs
  simp only [exec_trimSet hs, exec_dropRowSet hs, exec_manualModeSet hs, Host.Outcome.next.injEq]
  refine ⟨fun ha => ⟨trimRequest_written ha tag, dropRowRequest_written ha tag, manualRequest_written rfl ha tag,
      manualRequest_written rfl ha tag⟩, fun ha => ?_, fun _ trim h => trimRequest_range h tag trim s,
    fun _ small medium large h => dropRowRequest_range h tag small medium large s,
    fun _ _ h => manualRequest_range h tag s⟩
  have hb : s.active.isSome = true := Option.isSome_iff_ne_none.mpr ha
  exact ⟨trimRequest_busy hb tag, dropRowRequest_busy hb tag, fun _ i hm => manualRequest_busy hm hb tag i⟩

end Sys2Proof.Machine
end

section
/-! PROOFS. Reservation repair on a queue of which only R3's own laws are known (R61, R63, R64): it ends within the usable
supply. -/

namespace Sys2Proof.Machine

open Sys2Proof

variable {s t : State} {c : Chan} {n : Nat} {p : PrintRecord}

/-! ## Sums over the records -/

/-- Where no two records hold one handle, a sum over them is the named record's part and the others'. -/
theorem sum_named {l : List PrintRecord} (hn : (l.map (·.handle)).Nodup)
    (hf : l.find? (fun x => x.handle == n) = some p) (w : PrintRecord → Nat) :
    ∃ others : List PrintRecord, (∀ x ∈ others, x ∈ l ∧ x.handle ≠ n) ∧ (l.map w).sum = w p + (others.map w).sum ∧
      ∀ f : PrintRecord → PrintRecord, ((mapAt n f l).map w).sum = w (f p) + (others.map w).sum := by
  obtain ⟨a, b, rfl, hp, ha, hb⟩ := split_print hn hf
  refine ⟨a ++ b, fun x hx => ?_, ?_, fun f => ?_⟩
  · rcases List.mem_append.mp hx with hx | hx
    · exact ⟨by simp [hx], ha x hx⟩
    · exact ⟨by simp [hx], hb x hx⟩
  · simp only [List.map_append, List.map_cons, List.sum_append, List.sum_cons]
    omega
  · rw [mapAt_split f hp ha hb]
    simp only [List.map_append, List.map_cons, List.sum_append, List.sum_cons]
    omega

/-- What a record counts for among a channel's holders. -/
def holding (c : Chan) (p : PrintRecord) : Nat := if holds c p then 1 else 0

theorem holders_sum (c : Chan) (s : State) : holders c s = (s.queue.prints.map (holding c)).sum := by
  unfold holders
  induction s.queue.prints with
  | nil => rfl
  | cons p l ih =>
    rw [List.filter_cons, List.map_cons, List.sum_cons, ← ih, holding]
    split
    · simp; omega
    · simp

/-! ## The queue's own laws -/

/-- What R3 says of the handles, the ACTIVE print and the ready order. -/
structure Listed (s : State) : Prop where
  handles : (s.queue.prints.map (·.handle)).Nodup
  active : ∀ n m p q, s.findPrint n = some p → s.findPrint m = some q → p.state = .active → q.state = .active → n = m
  ready : ∀ n, n ∈ s.queue.readyOrder ↔ ∃ p, s.findPrint n = some p ∧ p.state = .ready

/-- A record of the queue is the one that its handle names. -/
theorem findPrint_iff (hn : (s.queue.prints.map (·.handle)).Nodup) :
    s.findPrint n = some p ↔ p ∈ s.queue.prints ∧ p.handle = n := by
  refine ⟨fun h => ⟨findPrint_mem h, findPrint_handle h⟩, ?_⟩
  rintro ⟨hp, rfl⟩
  have hsome : (s.findPrint p.handle).isSome = true := List.find?_isSome.mpr ⟨p, hp, beq_self_eq_true p.handle⟩
  obtain ⟨q, hq⟩ := Option.isSome_iff_exists.mp hsome
  have he := List.inj_on_of_nodup_map hn (findPrint_mem hq) hp (findPrint_handle hq)
  exact he ▸ hq

theorem listed_of (hn : (s.queue.prints.map (·.handle)).Nodup)
    (ha : (s.queue.prints.filter (·.state == .active)).length ≤ 1)
    (hr : ∀ h, h ∈ s.queue.readyOrder ↔ ∃ p ∈ s.queue.prints, p.handle = h ∧ p.state = .ready) : Listed s where
  handles := hn
  active n m p q hp hq h1 h2 := by
    have hm {x : PrintRecord} {k : Nat} (hx : s.findPrint k = some x) (h : x.state = .active) :
        x ∈ s.queue.prints.filter (·.state == .active) := List.mem_filter.mpr ⟨findPrint_mem hx, by simp [h]⟩
    obtain ⟨i, hi, ei⟩ := List.getElem_of_mem (hm hp h1)
    obtain ⟨j, hj, ej⟩ := List.getElem_of_mem (hm hq h2)
    obtain rfl : i = j := by omega
    rw [← findPrint_handle hp, ← findPrint_handle hq, ← ei, ← ej]
  ready n := by simp only [hr, findPrint_iff hn, and_assoc]

/-- One print's record changes, with its place in the ready order. -/
theorem Listed.change (l : Listed s) (hp : s.findPrint n = some p) (f : PrintRecord → PrintRecord)
    (hf : ∀ x, (f x).handle = x.handle) (ht : t.queue.prints = (s.mapPrint n f).queue.prints)
    (ha : (f p).state ≠ .active) (hr : n ∈ t.queue.readyOrder ↔ (f p).state = .ready)
    (ho : ∀ m, m ≠ n → (m ∈ t.queue.readyOrder ↔ m ∈ s.queue.readyOrder)) : Listed t := by
  have same : t.findPrint n = some (f p) := (findPrint_queue ht n).trans (findPrint_mapPrint f hf hp)
  have other : ∀ m, m ≠ n → t.findPrint m = s.findPrint m := fun m hm =>
    (findPrint_queue ht m).trans (findPrint_mapPrint_ne f hf hm)
  have still : ∀ m q, t.findPrint m = some q → q.state = .active → s.findPrint m = some q := fun m q hq hs => by
    by_cases hm : m = n
    · subst hm
      rw [same] at hq
      cases hq
      exact absurd hs ha
    · exact (other m hm).symm.trans hq
  refine ⟨?_, fun m k q x hq hx h1 h2 => l.active m k q x (still m q hq h1) (still k x hx h2) h1 h2, fun m => ?_⟩
  · have hh : t.queue.prints.map (·.handle) = s.queue.prints.map (·.handle) := by
      rw [ht, State.mapPrint_queue, List.map_map]
      refine List.map_congr_left fun x _ => ?_
      dsimp only [Function.comp_apply]
      split <;> simp [hf]
    exact hh ▸ l.handles
  · by_cases hm : m = n
    · subst hm
      rw [hr, same]
      simp
    · rw [ho m hm, l.ready, other m hm]

/-- What a change of one record does to its channel's committed total and holders. -/
theorem Listed.counts (l : Listed s) (hp : s.findPrint n = some p) (f : PrintRecord → PrintRecord)
    (ht : t.queue.prints = (s.mapPrint n f).queue.prints) (c : Chan) :
    t.committed c + share c p = s.committed c + share c (f p) ∧
      holders c t + holding c p = holders c s + holding c (f p) := by
  have part (w : PrintRecord → Nat) :
      (t.queue.prints.map w).sum + w p = (s.queue.prints.map w).sum + w (f p) := by
    obtain ⟨others, -, hs, hf⟩ := sum_named l.handles hp w
    have hm : (t.queue.prints.map w).sum = w (f p) + (others.map w).sum := ht ▸ hf f
    omega
  exact ⟨by simpa only [committed_shares] using part (share c), by simpa only [holders_sum] using part (holding c)⟩

/-- The queue's laws hold, and the channel has its law or at most so many holders. -/
structure Easing (c : Chan) (k : Nat) (s : State) : Prop extends Listed s where
  eased : s.committed c ≤ s.usable c ∨ holders c s ≤ k

theorem Easing.aside {k : Nat} (h : Easing c k s) (g : Aside s t) : Easing c k t := by
  have hq := g.queue
  have hf := fun n => findPrint_queue (congrArg PrintQueue.prints hq) n
  refine ⟨⟨hq ▸ h.handles, fun n m => by rw [hf, hf]; exact h.active n m, fun n => by rw [hq, hf]; exact h.ready n⟩, ?_⟩
  rw [usable_of_ink g.ink, committed_shares, hq, ← committed_shares, holders_queue hq]
  exact h.eased

/-- One print's record changes, and the channel's law does not see it or still has it. -/
theorem Easing.change {k : Nat} (h : Easing c k s) (hp : s.findPrint n = some p) (f : PrintRecord → PrintRecord)
    (ht : t.queue.prints = (s.mapPrint n f).queue.prints) (hi : t.ink = s.ink) (l : Listed t)
    (hc : share c (f p) = share c p ∧ holding c (f p) = holding c p ∨
      s.committed c + share c (f p) ≤ s.usable c) : Easing c k t := by
  obtain ⟨h1, h2⟩ := h.toListed.counts hp f ht c
  have hu := usable_of_ink hi c
  refine ⟨l, ?_⟩
  rcases hc with ⟨hs, hh⟩ | hc
  · exact h.eased.imp (by omega) (by omega)
  · exact .inl (by omega)

/-! ## The release checks -/

theorem share_waiting (h : p.state = .waiting) (c : Chan) : share c p = 0 := by simp [share, h]

theorem holding_waiting (h : p.state = .waiting) (c : Chan) : holding c p = 0 := by simp [holding, holds, h]

theorem share_released (c : Chan) (s : State) (p q : PrintRecord) : share c (released s p q) = s.wanted p c := by
  simp [share, released]

theorem holding_released (h : s.wanted p c = 0) (q : PrintRecord) : holding c (released s p q) = 0 := by
  simp [holding, holds, released, h]

theorem releasePrint_ink (p : PrintRecord) (s : State) : (releasePrint p s).ink = s.ink := by
  unfold releasePrint
  rw [(earlyFullCheck_aside _).ink, (printNotice_aside _ _ _).ink]
  exact State.mapEditionOf_ink s _ _

/-- A WAITING print takes its place among the READY ones with reservations that fit (R7). -/
theorem releasePrint_easing {k : Nat} (h : Easing c k s) (hp : s.findPrint p.handle = some p) (hs : p.state = .waiting)
    (hw : s.heldReasons p = []) : Easing c k (releasePrint p s) := by
  have hq := releasePrint_queue p s
  have ht := congrArg PrintQueue.prints hq
  have ho := congrArg PrintQueue.readyOrder hq
  have l := h.toListed.change hp (released s p) (fun _ => rfl) ht (by simp [released]) (by simp [ho, released])
    fun m hm => by simp [ho, hm]
  refine h.change hp (released s p) ht (releasePrint_ink p s) l ?_
  rw [share_released, share_waiting hs, holding_waiting hs]
  have hi := inkFits_of_release hw c
  simp only [State.inkFits, Bool.or_eq_true, decide_eq_true_eq] at hi
  exact hi.imp_left fun hz => ⟨hz, holding_released hz p⟩

theorem visitWaiting_easing {k : Nat} (h : Easing c k s) (n : Nat) : Easing c k (visitWaiting s n) := by
  unfold visitWaiting
  split
  · exact h
  · rename_i p hp
    have hn := findPrint_handle hp
    subst hn
    split
    · rename_i hs
      dsimp only
      split
      · rename_i hw
        exact releasePrint_easing h hp hs hw
      · split
        · exact h
        · refine Easing.aside ?_ (printNotice_aside _ _ _)
          have hr : p.handle ∉ s.queue.readyOrder := fun hm => by
            obtain ⟨q, hq, hqs⟩ := (h.ready _).mp hm
            rw [hp] at hq
            cases hq
            simp [hs] at hqs
          have l := h.toListed.change hp (fun q => { q with heldFor := s.heldReasons p }) (fun _ => rfl) rfl
            (by simp [hs]) (by simp [hs, hr]) fun _ _ => .rfl
          exact h.change hp _ rfl rfl l (.inl ⟨rfl, rfl⟩)
    · exact h

theorem releaseChecks_easing {k : Nat} (h : Easing c k s) : Easing c k (releaseChecks s) := by
  unfold releaseChecks
  generalize s.queue.prints.map (·.handle) = l
  induction l generalizing s with
  | nil => exact h
  | cons n l ih => exact ih (visitWaiting_easing h n)

/-! ## The returns -/

/-- A holder that returns to WAITING leaves the channel with its law, or with fewer holders (R10, R64). -/
theorem returnToWaiting_easing {k : Nat} (l : Listed s) (hp : s.findPrint p.handle = some p) (hh : holds c p = true)
    (hk : holders c s ≤ k + 1) (reason : HeldReason) : Easing c k (returnToWaiting p.handle reason s) := by
  have hs : p.state = .ready := by
    simp only [holds, Bool.and_eq_true, beq_iff_eq] at hh
    exact hh.1
  obtain ⟨f, hq, hf⟩ := giveBack_queue p reason s
  have ht := congrArg PrintQueue.prints hq
  have ho := congrArg PrintQueue.readyOrder hq
  obtain ⟨-, hc⟩ := l.counts hp f ht c
  have h1 : holding c p = 1 := by simp [holding, hh]
  rw [holding_waiting (hf p).state, h1] at hc
  simp only [returnToWaiting, hp, hs, if_true]
  have lg : Listed (giveBack p reason s) := l.change hp f (fun x => (hf x).handle) ht (by simp [(hf p).state])
    (by simp [ho, (hf p).state]) fun m hm => by simp [ho, hm]
  exact releaseChecks_easing (Easing.aside ⟨lg, .inr (by omega)⟩
    ((printNotice_aside _ _ _).trans (earlyFullCheck_aside _)))

theorem Listed.mem_readyPrints (l : Listed s) :
    p ∈ s.readyPrints ↔ s.findPrint p.handle = some p ∧ p.state = .ready := by
  unfold State.readyPrints
  rw [List.mem_filterMap]
  constructor
  · rintro ⟨n, hn, hp⟩
    obtain ⟨q, hq, hs⟩ := (l.ready n).mp hn
    have hh := findPrint_handle hp
    subst hh
    rw [hp] at hq
    cases hq
    exact ⟨hp, hs⟩
  · rintro ⟨hp, hs⟩
    exact ⟨p.handle, (l.ready _).mpr ⟨p, hp, hs⟩, hp⟩

theorem Listed.youngestHolder_some (l : Listed s) (h : s.youngestHolder c = some p) :
    s.findPrint p.handle = some p ∧ holds c p = true := by
  obtain ⟨hm, hr⟩ := List.mem_filter.mp (List.mem_of_getLast? h)
  obtain ⟨hp, hs⟩ := l.mem_readyPrints.mp hm
  exact ⟨hp, by simpa [holds, hs] using hr⟩

/-- With no READY holder, what is not ACTIVE counts for nothing in the committed total. -/
theorem Listed.share_of_none (l : Listed s) (h : s.youngestHolder c = none) (hp : p ∈ s.queue.prints)
    (ha : p.state ≠ .active) : share c p = 0 := by
  unfold share
  split
  · rename_i hs
    simp only [Bool.or_eq_true, beq_iff_eq] at hs
    have hm := l.mem_readyPrints.mpr ⟨(findPrint_iff l.handles).mpr ⟨hp, rfl⟩, hs.resolve_right ha⟩
    simpa using List.filter_eq_nil_iff.mp (List.getLast?_eq_none_iff.mp h) p hm
  · rfl

/-! ## The repair -/

theorem sum_shares_zero {l : List PrintRecord} (h : ∀ p ∈ l, share c p = 0) : (l.map (share c)).sum = 0 :=
  List.sum_eq_zero fun x hx => by
    obtain ⟨p, hp, rfl⟩ := List.mem_map.mp hx
    exact h p hp

/-- With no READY holder the committed total is the ACTIVE print's reservation, which is clipped to the supply (R64). -/
theorem Listed.clipActive_within (l : Listed s) (h : s.youngestHolder c = none) :
    (clipActive c s).committed c ≤ s.usable c := by
  unfold clipActive
  split
  · rename_i ha
    rw [committed_shares, sum_shares_zero fun p hp => l.share_of_none h hp
      (by simpa using List.find?_eq_none.mp ha p hp)]
    exact Nat.zero_le _
  · rename_i p ha
    have hs : p.state = .active := by simpa using List.find?_some ha
    have hp : s.findPrint p.handle = some p := (findPrint_iff l.handles).mpr ⟨List.mem_of_find?_eq_some ha, rfl⟩
    obtain ⟨others, ho, -, hsum⟩ := sum_named l.handles hp (share c)
    have hz : (others.map (share c)).sum = 0 := sum_shares_zero fun q hq => by
      obtain ⟨hm, hn⟩ := ho q hq
      exact l.share_of_none h hm fun e => hn (l.active _ _ q p ((findPrint_iff l.handles).mpr ⟨hm, rfl⟩) hp e hs)
    have hclip := hsum fun q => { q with reservation := q.reservation.set c (min q.reservation[c] (s.usable c)) }
    rw [hz] at hclip
    rw [committed_shares]
    refine (Nat.le_of_eq hclip).trans ?_
    simp [share, hs]

theorem holders_pos (hp : s.findPrint n = some p) (hh : holds c p = true) : 0 < holders c s :=
  List.length_pos_of_mem (List.mem_filter.mpr ⟨findPrint_mem hp, hh⟩)

/-- More fuel than holders repairs the channel (R64, log entry 27). -/
theorem Easing.repairLoop_within {k m : Nat} (h : Easing c k s) (hk : k < m) :
    (repairLoop m c s).committed c ≤ s.usable c := by
  induction m generalizing k s with
  | zero => exact absurd hk (Nat.not_lt_zero k)
  | succ m ih =>
    unfold repairLoop
    split
    · assumption
    · rename_i hc
      have hn := h.eased.resolve_left hc
      split
      · rename_i p hp
        obtain ⟨hf, hh⟩ := h.toListed.youngestHolder_some hp
        have hpos := holders_pos hf hh
        have he := returnToWaiting_easing (k := k - 1) h.toListed hf hh (by omega) (.ink c)
        rw [← usable_of_ink (returnToWaiting_ink p.handle (.ink c) s)]
        exact ih he (by omega)
      · rename_i hp
        exact h.toListed.clipActive_within hp

theorem repair_usable (c : Chan) (s : State) : (repair c s).usable c = s.usable c :=
  usable_of_ink (repairLoop_ink _ c s) c

/-- A channel within its supply needs no repair (R63). -/
theorem repair_of_within (h : s.committed c ≤ s.usable c) : repair c s = s := if_pos h

theorem repair_within (l : Listed s) (hl : s.queue.prints.length ≤ 8) :
    (repair c s).committed c ≤ (repair c s).usable c := by
  have he : Easing c (holders c s) s := ⟨l, .inr (Nat.le_refl _)⟩
  rw [repair_usable]
  exact he.repairLoop_within (Nat.lt_succ_of_le ((holders_le c s).trans hl))

/-- Settles O48: the repair runs while a READY print holds ink beyond the supply, and then clips the ACTIVE one; one
channel's metering parts its total into the debit and the new residue. -/
theorem meteringLosesNothing : Obligations.MeteringLosesNothing := by
  unfold Obligations.MeteringLosesNothing
  refine ⟨fun c s hl hn ha _ hr => ⟨repair_within (listed_of hn ha hr) hl, repair_usable c s, repair_of_within⟩,
    fun h row r s c => ⟨⟨debitOf (s.metered row r c), ?_, ?_, ?_, fun p hp => ?_⟩, ?_, fun d hd => ?_⟩⟩
  · rw [meterChannel_residue]
    exact debitOf_add_residueOf _
  · rw [meterChannel_channel]
    rfl
  · rw [meterChannel_channel]
    rfl
  · exact ⟨_, meterChannel_findPrint h row r s c hp, chargePrint_charges ..⟩
  · rw [meterChannel_residue]
    exact residueOf_lt _
  · exact ⟨meterChannel_residue_ne h row r s c hd, meterChannel_channel_ne h row r s c hd⟩

end Sys2Proof.Machine
end

section
/-! PROOFS. The media transport and the roll's geometry: the station list and the law of the roll over a step, the
requests that set a new base, MOVE, CLEAR_FAULT naming the transport, and the server's cuts. -/

namespace Sys2Proof.Machine

open Sys2Proof

variable {s t : State}

/-! ## The law of the roll over a step -/

/-- Settles O6: the order of the list is among the five laws, and the law of the roll among the laws of the work; every
command is lawful. -/
theorem stationOrderKept : Obligations.StationOrderKept := by
  unfold Obligations.StationOrderKept
  refine ⟨fun s t l h => ?_, fun s t w h => ?_⟩ <;> obtain ⟨q, k⟩ := lawful_of_step h
  · exact k.laws.stations l
  · exact (k.work w).rollLaw

/-! ## A new base for the roll -/

theorem exec_rollLoad (tag mediaType width length serial : Nat) (s : State) :
    exec (.rollLoad tag mediaType width length serial) s =
      .next (rollLoadRequest tag mediaType width length serial s) :=
  next_request_operator ..

theorem exec_rollConfirm (tag : Nat) (s : State) : exec (.rollConfirm tag) s = .next (rollConfirmRequest tag s) :=
  next_request_operator ..

theorem rollInRange_iff {mediaType width length : Nat} : rollInRange mediaType width length = true ↔
    mediaType ≤ 15 ∧ 254 ≤ width ∧ width ≤ 1626 ∧ 1 ≤ length ∧ length ≤ 100000 := by
  simp [rollInRange, and_assoc]

/-- What work on the roll is (R70, R72). -/
theorem rollInUse_iff :
    s.rollInUse = true ↔ s.queue.prints.any (·.onRoll) = true ∨ s.positioned ≠ none ∨ s.media.feed ≠ none := by
  simp only [State.rollInUse, State.feeding, Bool.or_eq_true, Option.isSome_iff_ne_none, or_assoc]

theorem rollInUse_eq_false (hp : s.queue.prints.any (·.onRoll) = false) (hn : s.positioned = none)
    (hf : s.media.feed = none) : s.rollInUse = false := by
  simp only [State.rollInUse, State.feeding, hp, hn, hf, Option.isSome_none, Bool.or_self]

/-- What a load or a confirmation that passes its tests answers: the new geometry, read before a start (log entry 8). -/
def based (tag kind : Nat) (s : State) : State := reply tag .ok kind (geometryReply s) (finish (haltUpdate s))

section rollLoad

variable {mediaType width length : Nat} (tag serial : Nat)

theorem rollLoad_range (h : ¬rollInRange mediaType width length = true) :
    rollLoadRequest tag mediaType width length serial s = reply tag .range 0x20 .none s := by
  simp only [rollLoadRequest, h, Bool.not_false, if_true]

variable (h : rollInRange mediaType width length = true)

include h

theorem rollLoad_state
    (hs : s.inputs.rollPresent = false ∨ s.inputs.rollEndMedia = false ∨ s.media.state = .faulted) :
    rollLoadRequest tag mediaType width length serial s = reply tag .state 0x20 .none s := by
  simp only [rollLoadRequest, h, hs, Bool.not_true, Bool.false_eq_true, Bool.not_eq_true', if_false, if_true]

theorem rollLoad_busy (hp : s.inputs.rollPresent = true) (he : s.inputs.rollEndMedia = true)
    (hs : s.media.state ≠ .faulted) (hu : s.rollInUse = true) :
    rollLoadRequest tag mediaType width length serial s = reply tag .busy 0x20 .none s := by
  simp only [rollLoadRequest, h, hp, he, hs, hu, Bool.not_true, Bool.false_eq_true, or_self, if_false, if_true]

theorem rollLoad_bases (hp : s.inputs.rollPresent = true) (he : s.inputs.rollEndMedia = true)
    (hs : s.media.state ≠ .faulted) (hu : s.rollInUse = false)
    (ht : newBase .rollLoad (.loaded mediaType width serial)
      (setRoll (loadedRoll mediaType width length serial) s) = t) :
    rollLoadRequest tag mediaType width length serial s = based tag 0x20 t := by
  subst ht
  simp only [rollLoadRequest, h, hp, he, hs, hu, Bool.not_true, Bool.false_eq_true, or_self, if_false]
  rfl

end rollLoad

section rollConfirm

variable (tag : Nat)

theorem rollConfirm_state
    (h : s.media.rollState ≠ .unverified ∨ s.inputs.rollPresent = false ∨ s.media.state = .faulted) :
    rollConfirmRequest tag s = reply tag .state 0x21 .none s := by
  simp only [rollConfirmRequest, h, Bool.not_eq_true', if_true]

variable (hr : s.media.rollState = .unverified) (hp : s.inputs.rollPresent = true) (hs : s.media.state ≠ .faulted)

include hr hp hs

theorem rollConfirm_busy (hu : s.rollInUse = true) : rollConfirmRequest tag s = reply tag .busy 0x21 .none s := by
  simp only [rollConfirmRequest, hr, hp, hs, hu, ne_eq, not_true, Bool.not_true, Bool.false_eq_true, or_self, if_false,
    if_true]

theorem rollConfirm_bases (hu : s.rollInUse = false)
    (ht : newBase .rollConfirm (.confirmed s.media.roll.mediaType s.media.roll.width s.media.roll.serial)
      (setRoll (rebasedRoll s.media.roll) s) = t) : rollConfirmRequest tag s = based tag 0x21 t := by
  subst ht
  simp only [rollConfirmRequest, hr, hp, hs, hu, ne_eq, not_true, Bool.not_true, Bool.false_eq_true, or_self, if_false]
  rfl

end rollConfirm

/-- A confirmation keeps L − H, since H is never beyond L + 1800 (R72, log entry 30). -/
theorem rebasedRoll_tail {r : RollGeometry} (h : r.head ≤ r.tail + 1800) :
    ((rebasedRoll r).tail : Int) = 1800 + ((r.tail : Int) - r.head) := by
  simp only [rebasedRoll]
  omega

/-- Settles O28: the tests of each request in their order, and the record that each writes. -/
theorem rollBases : Obligations.RollBases := by
  unfold Obligations.RollBases
  intro tag s
  simp only [exec_rollLoad, exec_rollConfirm, Host.Outcome.next.injEq]
  refine ⟨fun hp hs hq hn hf => ⟨fun mediaType width length serial he h1 h2 h3 h4 h5 => ?_, fun hr hh => ?_⟩,
    rollConfirm_state tag, fun mediaType width length serial h => rollLoad_range tag serial fun hr => ?_,
    fun mediaType width length serial h1 h2 h3 h4 h5 => ?_,
    fun hr hp hs hu => rollConfirm_busy tag hr hp hs (rollInUse_iff.mpr hu)⟩
  · exact rollLoad_bases tag serial (rollInRange_iff.mpr ⟨h1, h2, h3, h4, h5⟩) hp he hs
      (rollInUse_eq_false hq hn hf) rfl
  · exact ⟨_, rebasedRoll_tail hh, rollConfirm_bases tag hr hp hs (rollInUse_eq_false hq hn hf) rfl⟩
  · have := rollInRange_iff.mp hr
    omega
  · have hr := rollInRange_iff.mpr ⟨h1, h2, h3, h4, h5⟩
    exact ⟨rollLoad_state tag serial hr, fun hp he hs hu => rollLoad_busy tag serial hr hp he hs (rollInUse_iff.mpr hu)⟩

/-! ## MOVE and CLEAR_FAULT naming the transport -/

theorem exec_move (tag d : Nat) (s : State) : exec (.move tag d) s = .next (moveRequest tag d s) :=
  next_request_operator ..

theorem exec_clearFaultTransport (tag : Nat) (s : State) :
    exec (.clearFaultTransport tag) s = .next (clearTransportRequest tag s) := next_request_operator ..

/-- A feed is in progress, or a stop runs, with an owner or without (R79, R81). -/
theorem transportBusy_iff :
    (s.feeding = true ∨ s.ownerlessStop = true) ↔ s.media.feed ≠ none ∨ s.media.state = .stoppedAtStation := by
  cases hf : s.media.feed <;> simp [State.feeding, State.ownerlessStop, hf]

section move

variable {d : Nat} (tag : Nat)

theorem move_state (h : s.media.rollState = .none ∨ s.media.state = .faulted) :
    moveRequest tag d s = reply tag .state 0x22 .none s := if_pos h

variable (hr : s.media.rollState ≠ .none) (hs : s.media.state ≠ .faulted)

include hr hs

theorem move_held (hh : s.media.hold ≠ .none) : moveRequest tag d s = reply tag .held 0x22 .none s := by
  simp only [moveRequest, hr, hs, hh, ne_eq, not_false_eq_true, or_self, if_false, if_true]

variable (hh : s.media.hold = .none)

include hh

theorem move_busy (hb : s.media.feed ≠ none ∨ s.media.state = .stoppedAtStation) :
    moveRequest tag d s = reply tag .busy 0x22 .none s := by
  simp only [moveRequest, hr, hs, hh, transportBusy_iff.mpr hb, ne_eq, not_true, or_self, if_false, if_true]

variable (hb : ¬(s.media.feed ≠ none ∨ s.media.state = .stoppedAtStation))

include hb

theorem move_range (hd : d = 0 ∨ s.media.roll.tail + 1800 < s.media.roll.head + d) :
    moveRequest tag d s = reply tag .range 0x22 .none s := by
  have hd : d = 0 ∨ s.media.roll.tail + Config.cutterOffset < s.media.roll.head + d := hd
  simp only [moveRequest, hr, hs, hh, mt transportBusy_iff.mp hb, hd, ne_eq, not_true, or_self, if_false, if_true]

theorem move_begins (h1 : 1 ≤ d) (hd : s.media.roll.head + d ≤ s.media.roll.tail + 1800) :
    moveRequest tag d s = reply tag .ok 0x22 (.target (s.media.roll.head + d))
      (finish (beginFeed .move (s.media.roll.head + d) s)) := by
  have hd : ¬(d = 0 ∨ s.media.roll.tail + Config.cutterOffset < s.media.roll.head + d) :=
    not_or.mpr ⟨Nat.one_le_iff_ne_zero.mp h1, Nat.not_lt.mpr hd⟩
  simp only [moveRequest, hr, hs, hh, mt transportBusy_iff.mp hb, hd, ne_eq, not_true, or_self, if_false]

end move

section clearFault

variable (tag : Nat)

theorem clearTransport_state (h : s.media.state ≠ .faulted) :
    clearTransportRequest tag s = reply tag .state 0x09 .none s := if_pos h

variable (h : s.media.state = .faulted)

include h

theorem clearTransport_busy (hw : s.workRunning = true) :
    clearTransportRequest tag s = reply tag .busy 0x09 .none s := by
  simp only [clearTransportRequest, h, hw, ne_eq, not_true, if_false, if_true]

theorem clearTransport_clears (hw : s.workRunning = false) :
    clearTransportRequest tag s = reply tag .ok 0x09 (.rollState (clearTransport s).media.rollState)
      (finish (stopIfHere (clearTransport s))) := by
  simp only [clearTransportRequest, h, hw, ne_eq, not_true, Bool.false_eq_true, if_false]

end clearFault

/-- Settles O29: the tests of each request in their order. -/
theorem moveAndClear : Obligations.MoveAndClear := by
  unfold Obligations.MoveAndClear
  intro tag s
  simp only [exec_move, exec_clearFaultTransport, Host.Outcome.next.injEq]
  refine ⟨fun d hr hs hh hf ht h1 hd => ?_, fun d => move_state tag, fun hr hs => ⟨fun hh d => move_held tag hr hs hh,
    fun hh => ⟨fun hb d => move_busy tag hr hs hh hb, fun hf ht d hd => ?_⟩⟩, clearTransport_clears tag,
    clearTransport_busy tag, clearTransport_state tag⟩
  · exact move_begins tag hr hs hh (not_or.mpr ⟨not_not.mpr hf, ht⟩) h1 hd
  · exact move_range tag hr hs hh (not_or.mpr ⟨not_not.mpr hf, ht⟩) hd

/-! ## The server's cuts -/

theorem exec_cutAt (tag position chute : Nat) (s : State) :
    exec (.cutAt tag position chute) s = .next (cutAtRequest tag position chute s) := next_request_operator ..

theorem exec_cutNow (tag chute : Nat) (s : State) : exec (.cutNow tag chute) s = .next (cutNowRequest tag chute s) :=
  next_request_operator ..

theorem chuteOf_none {code : Nat} (h : 2 ≤ code) : chuteOf code = none := by
  obtain ⟨k, rfl⟩ := Nat.exists_eq_add_of_le' h
  rfl

theorem chuteOf_some {code : Nat} (h : code < 2) : ∃ chute, chuteOf code = some chute := by
  match code with
  | 0 => exact ⟨_, rfl⟩
  | 1 => exact ⟨_, rfl⟩

theorem beyondCut_iff {position : Nat} :
    s.beyondCut position = true ↔ position ≤ s.media.roll.lastCut ∨ s.media.roll.tail ≤ position := by
  simp only [State.beyondCut, Bool.or_eq_true, decide_eq_true_eq]

theorem beyondCut_eq_false {position : Nat} (hl : s.media.roll.lastCut < position)
    (ht : position < s.media.roll.tail) : s.beyondCut position = false :=
  Bool.eq_false_iff.mpr (mt beyondCut_iff.mp (by omega))

theorem listFull_iff : s.listFull = true ↔ 16 ≤ s.media.stations.length := decide_eq_true_iff

theorem listFull_eq_false (h : s.media.stations.length < 16) : s.listFull = false :=
  Bool.eq_false_iff.mpr (mt listFull_iff.mp (Nat.not_le.mpr h))

theorem triggerOf_cutServer (position : Nat) : triggerOf .cutServer position = position + 1800 := rfl

/-- The position is free for a cut of the server: on the roll ahead of the last cut, in no span that protects it, and
not listed (R100, R101). -/
structure Cuttable (s : State) (position : Nat) : Prop where
  onRoll : s.beyondCut position = false
  bare : s.protectedAt position = false
  unlisted : s.cutListed position = false

section cutAt

variable {position code : Nat} {chute : Chute} (tag : Nat)

theorem cutAt_noChute (hc : chuteOf code = none) :
    cutAtRequest tag position code s = reply tag .range 0x24 .none s := by
  simp only [cutAtRequest, hc]

variable (hc : chuteOf code = some chute)

include hc

theorem cutAt_noRoll (hr : s.media.rollState = .none) :
    cutAtRequest tag position code s = reply tag .state 0x24 .none s := by
  simp only [cutAtRequest, hc, hr, if_true]

variable (hr : s.media.rollState ≠ .none)

include hr

theorem cutAt_range (h : position + 1800 < s.media.roll.head ∨ s.beyondCut position = true) :
    cutAtRequest tag position code s = reply tag .range 0x24 .none s := by
  simp only [cutAtRequest, triggerOf_cutServer, hc, hr, h, if_false, if_true]

variable (hh : s.media.roll.head ≤ position + 1800)

include hh

theorem cutAt_protected (hb : s.beyondCut position = false) (hp : s.protectedAt position = true) :
    cutAtRequest tag position code s = reply tag .isProtected 0x24 .none s := by
  simp only [cutAtRequest, triggerOf_cutServer, hc, hr, Nat.not_lt.mpr hh, hb, hp, Bool.false_eq_true, or_self,
    if_false, if_true]

theorem cutAt_exists (hb : s.beyondCut position = false) (hp : s.protectedAt position = false)
    (he : s.cutListed position = true ∨ s.cutRunsAt position = true) :
    cutAtRequest tag position code s = reply tag .exists_ 0x24 .none s := by
  simp only [cutAtRequest, triggerOf_cutServer, hc, hr, Nat.not_lt.mpr hh, hb, hp, Bool.or_eq_true, he,
    Bool.false_eq_true, or_self, if_false, if_true]

variable (hf : Cuttable s position) (he : s.cutRunsAt position = false)

include hf he

theorem cutAt_busy (hm : s.movementHolds (position + 1800) = true) :
    cutAtRequest tag position code s = reply tag .busy 0x24 .none s := by
  simp only [cutAtRequest, triggerOf_cutServer, hc, hr, Nat.not_lt.mpr hh, hf.onRoll, hf.bare, hf.unlisted, he, hm,
    Bool.false_eq_true, Bool.or_self, or_self, if_false, if_true]

variable (hm : s.movementHolds (position + 1800) = false)

include hm

theorem cutAt_full (hl : s.listFull = true) : cutAtRequest tag position code s = reply tag .full 0x24 .none s := by
  simp only [cutAtRequest, triggerOf_cutServer, hc, hr, Nat.not_lt.mpr hh, hf.onRoll, hf.bare, hf.unlisted, he, hm, hl,
    Bool.false_eq_true, Bool.or_self, or_self, if_false, if_true]

theorem cutAt_lists (hl : s.listFull = false) : cutAtRequest tag position code s =
    reply tag .ok 0x24 (.trigger (position + 1800)) (listServerCut position chute s) := by
  simp only [cutAtRequest, triggerOf_cutServer, hc, hr, Nat.not_lt.mpr hh, hf.onRoll, hf.bare, hf.unlisted, he, hm, hl,
    Bool.false_eq_true, Bool.or_self, or_self, if_false]

end cutAt

section cutNow

variable {code : Nat} {chute : Chute} (tag : Nat)

theorem cutNow_noChute (hc : chuteOf code = none) : cutNowRequest tag code s = reply tag .range 0x25 .none s := by
  simp only [cutNowRequest, hc]

variable (hc : chuteOf code = some chute)

include hc

theorem cutNow_state (h : s.media.rollState = .none ∨ s.media.state = .faulted) :
    cutNowRequest tag code s = reply tag .state 0x25 .none s := by
  simp only [cutNowRequest, hc, h, if_true]

variable (hr : s.media.rollState ≠ .none) (hs : s.media.state ≠ .faulted)

include hr hs

theorem cutNow_held (hh : s.media.hold ≠ .none) : cutNowRequest tag code s = reply tag .held 0x25 .none s := by
  simp only [cutNowRequest, hc, hr, hs, hh, ne_eq, not_false_eq_true, or_self, if_false, if_true]

variable (hh : s.media.hold = .none)

include hh

theorem cutNow_busy (hb : s.media.feed ≠ none ∨ s.media.state = .stoppedAtStation) :
    cutNowRequest tag code s = reply tag .busy 0x25 .none s := by
  simp only [cutNowRequest, hc, hr, hs, hh, transportBusy_iff.mpr hb, ne_eq, not_true, or_self, if_false, if_true]

variable (hb : ¬(s.media.feed ≠ none ∨ s.media.state = .stoppedAtStation))

include hb

theorem cutNow_range (h : s.beyondCut s.cutterPoint = true) :
    cutNowRequest tag code s = reply tag .range 0x25 .none s := by
  simp only [cutNowRequest, hc, hr, hs, hh, mt transportBusy_iff.mp hb, h, ne_eq, not_true, or_self, if_false, if_true]

theorem cutNow_protected (h : s.beyondCut s.cutterPoint = false) (hp : s.protectedAt s.cutterPoint = true) :
    cutNowRequest tag code s = reply tag .isProtected 0x25 .none s := by
  simp only [cutNowRequest, hc, hr, hs, hh, mt transportBusy_iff.mp hb, h, hp, ne_eq, not_true, Bool.false_eq_true,
    or_self, if_false, if_true]

theorem cutNow_exists (h : s.beyondCut s.cutterPoint = false) (hp : s.protectedAt s.cutterPoint = false)
    (he : s.cutListed s.cutterPoint = true) : cutNowRequest tag code s = reply tag .exists_ 0x25 .none s := by
  simp only [cutNowRequest, hc, hr, hs, hh, mt transportBusy_iff.mp hb, h, hp, he, ne_eq, not_true, Bool.false_eq_true,
    or_self, if_false, if_true]

variable (hf : Cuttable s s.cutterPoint)

include hf

theorem cutNow_full (hl : s.listFull = true) : cutNowRequest tag code s = reply tag .full 0x25 .none s := by
  simp only [cutNowRequest, hc, hr, hs, hh, mt transportBusy_iff.mp hb, hf.onRoll, hf.bare, hf.unlisted, hl, ne_eq,
    not_true, Bool.false_eq_true, or_self, if_false, if_true]

theorem cutNow_lists (hl : s.listFull = false) : cutNowRequest tag code s =
    reply tag .ok 0x25 (.cutPosition s.cutterPoint) (listServerCut s.cutterPoint chute s) := by
  simp only [cutNowRequest, hc, hr, hs, hh, mt transportBusy_iff.mp hb, hf.onRoll, hf.bare, hf.unlisted, hl, ne_eq,
    not_true, Bool.false_eq_true, or_self, if_false]

end cutNow

/-- Settles O30: the tests of each request in the order of its table. -/
theorem serverCuts : Obligations.ServerCuts := by
  unfold Obligations.ServerCuts
  refine ⟨fun tag s chute hr => ?_, fun tag s => ⟨fun position code h => ?_, fun code h => ?_, fun hr =>
    ⟨fun position code h => ?_, fun code h => ?_⟩⟩⟩
  · intro code at_ now listed
    have hc : chuteOf code = some chute := by cases chute <;> rfl
    have ha : ∀ position, at_ position = .next (cutAtRequest tag position code s) := fun position => exec_cutAt ..
    have hn : now = .next (cutNowRequest tag code s) := exec_cutNow ..
    simp only [ha, hn, Host.Outcome.next.injEq]
    refine ⟨fun position h => cutAt_range tag hc hr (h.imp_right beyondCut_iff.mpr), fun position hh h1 h2 => ?_,
      fun hs => cutNow_state tag hc (.inr hs), fun hs => ⟨cutNow_held tag hc hr hs, fun hh =>
        ⟨cutNow_busy tag hc hr hs hh, fun hd ht => ?_⟩⟩⟩
    · have hb := beyondCut_eq_false h1 h2
      refine ⟨cutAt_protected tag hc hr hh hb, fun hp => ⟨cutAt_exists tag hc hr hh hb hp, fun hl he => ?_⟩⟩
      have hf : Cuttable s position := ⟨hb, hp, hl⟩
      exact ⟨cutAt_busy tag hc hr hh hf he, fun hm => ⟨fun h => cutAt_full tag hc hr hh hf he hm (listFull_iff.mpr h),
        fun h => cutAt_lists tag hc hr hh hf he hm (listFull_eq_false h)⟩⟩
    · have hi : ¬(s.media.feed ≠ none ∨ s.media.state = .stoppedAtStation) := not_or.mpr ⟨not_not.mpr hd, ht⟩
      refine ⟨fun h => cutNow_range tag hc hr hs hh hi (beyondCut_iff.mpr h), fun h1 h2 => ?_⟩
      have hb : s.beyondCut s.cutterPoint = false := beyondCut_eq_false h1 h2
      refine ⟨cutNow_protected tag hc hr hs hh hi hb, fun hp => ⟨cutNow_exists tag hc hr hs hh hi hb hp, fun hl => ?_⟩⟩
      have hf : Cuttable s s.cutterPoint := ⟨hb, hp, hl⟩
      exact ⟨fun h => cutNow_full tag hc hr hs hh hi hf (listFull_iff.mpr h),
        fun h => cutNow_lists tag hc hr hs hh hi hf (listFull_eq_false h)⟩
  · rw [exec_cutAt, cutAt_noChute tag (chuteOf_none h)]
  · rw [exec_cutNow, cutNow_noChute tag (chuteOf_none h)]
  · obtain ⟨chute, hc⟩ := chuteOf_some h
    rw [exec_cutAt, cutAt_noRoll tag hc hr]
  · obtain ⟨chute, hc⟩ := chuteOf_some h
    rw [exec_cutNow, cutNow_state tag hc (.inl hr)]

end Sys2Proof.Machine
end

section
/-! PROOFS. The events of the cutter, the blink timebase and the day timer. -/

namespace Sys2Proof.Machine

open Sys2Proof

variable {s : State}

/-! ## The meanings of the events -/

theorem exec_flapSettled (s : State) : exec .flapSettled s = .next (flapSettles s) := rfl

theorem exec_bladeLeavesRest (s : State) : exec .bladeLeavesRest s = .next (bladeLeaves s) := rfl

theorem exec_bladeHome (s : State) : exec .bladeHome s = .next (bladeReturns s) := rfl

theorem exec_settleLimitExpiry (s : State) : exec .settleLimitExpiry s = .next (settleExpires s) := rfl

theorem exec_bladeLimitExpiry (s : State) : exec .bladeLimitExpiry s = .next (bladeExpires s) := rfl

theorem exec_dayTimerExpiry (s : State) : exec .dayTimerExpiry s = .next (refreshPanel (dayTimer s)) := rfl

theorem exec_blinkPeriod (s : State) :
    exec .blinkPeriod s = .next (refreshPanel (timeTo ((s.clock.now / 125 + 1) * 125) s)) := rfl

/-! ## The inputs of the flap and the blade, in the stage that reads them and outside it -/

theorem flapSettles_chute (h : s.cutter.state = .settingChute) :
    flapSettles s = fireBlade (flapRead { s with inputs := { s.inputs with flapSettled := true } }) := if_pos h

theorem flapSettles_other (h : s.cutter.state ≠ .settingChute) :
    flapSettles s = flapRead { s with inputs := { s.inputs with flapSettled := true } } := if_neg h

theorem bladeLeaves_cutting (h : s.cutter.state = .cutting) :
    bladeLeaves s = (setHome false s).mapCutter fun k => { k with leftRest := true } := if_pos h

theorem bladeLeaves_other (h : s.cutter.state ≠ .cutting) : bladeLeaves s = setHome false s := if_neg h

theorem bladeReturns_cutting (h : s.cutter.state = .cutting) (hl : s.cutter.leftRest = true) :
    bladeReturns s = finish (completeCut (setHome true s)) := if_pos ⟨h, hl⟩

theorem bladeReturns_other (h : s.cutter.state ≠ .cutting) : bladeReturns s = setHome true s :=
  if_neg fun hc => h hc.1

/-! ## The limits, the timebase and the day timer -/

theorem settleExpires_past {d : Nat} (h : s.cutter.settleDeadline = some d) (hd : d ≤ s.clock.now) :
    settleExpires s = finish (failCut .flap s) := by
  rw [settleExpires, h]
  dsimp only
  rw [timeTo_past hd]

theorem bladeExpires_past {d : Nat} (h : s.cutter.bladeDeadline = some d) (hd : d ≤ s.clock.now) :
    bladeExpires s = finish (failCut .blade s) := by
  rw [bladeExpires, h]
  dsimp only
  rw [timeTo_past hd]

/-- A deadline still ahead becomes the time (log entry 4). -/
theorem timeTo_ahead {d : Nat} (h : s.clock.now ≤ d) :
    timeTo d s = { s with clock := { s.clock with now := d } } := by
  rw [timeTo, Nat.max_eq_right h]

/-- The next boundary of the blink timebase is still ahead (R191). -/
theorem now_le_nextBlink (now : Nat) : now ≤ (now / 125 + 1) * 125 := by omega

theorem dayTimer_past {d day : Nat} (h : s.clock.dayDeadline = some d) (hk : s.clock.day = some day)
    (hd : d ≤ s.clock.now) :
    dayTimer s = { s with clock := ⟨s.clock.now, some ((day + 1) % 65536), some (s.clock.now + 86400000)⟩ } := by
  rw [dayTimer, h]
  dsimp only
  rw [timeTo_past hd, hk]
  rfl

/-- Settles O46: each input's function by the cutter's stage, each limit and timer at a deadline that has passed, and
the timebase at a boundary still ahead. -/
theorem cutterAndTimeEvents : Obligations.CutterAndTimeEvents := by
  unfold Obligations.CutterAndTimeEvents
  intro s settled home
  refine ⟨fun h => ?_, fun h => ?_, fun h => ?_, fun h => ⟨?_, ?_⟩, fun h hl => ?_, fun d h hd => ?_, fun d h hd => ?_,
    ?_, fun d day h hk hd => ?_⟩
  · rw [exec_flapSettled, flapSettles_chute h]
    rfl
  · rw [exec_flapSettled, flapSettles_other h]
    rfl
  · rw [exec_bladeLeavesRest, bladeLeaves_cutting h]
    rfl
  · rw [exec_bladeLeavesRest, bladeLeaves_other h]
    rfl
  · rw [exec_bladeHome, bladeReturns_other h]
    rfl
  · rw [exec_bladeHome, bladeReturns_cutting h hl]
    rfl
  · rw [exec_settleLimitExpiry, settleExpires_past h hd]
  · rw [exec_bladeLimitExpiry, bladeExpires_past h hd]
  · rw [exec_blinkPeriod, timeTo_ahead (now_le_nextBlink _)]
  · rw [exec_dayTimerExpiry, dayTimer_past h hk hd]

end Sys2Proof.Machine
end

section
/-! PROOFS. The bodies of the frames: each field read back where it was written, and with it the messages of the engine
and of the spectro head (R178, section 10.8). -/

namespace Sys2Proof.Machine

open Sys2Proof

/-! ## One field -/

theorem leNat_leBytes {n v : Nat} (h : v < 256 ^ n) : leNat (leBytes n v) = v := by
  induction n generalizing v with
  | zero =>
    rw [pow_zero] at h
    simp only [leBytes, leNat]
    omega
  | succ n ih =>
    have hd : v / 256 < 256 ^ n := Nat.div_lt_of_lt_mul (by rwa [pow_succ'] at h)
    rw [leBytes, leNat, ih hd, BitVec.toNat_ofNat]
    omega

theorem signedBytes_length (v : Int) : (signedBytes v).length = 2 := leBytes_length _ _

/-- A field inside the first part of a body. -/
theorem field_append_left {a : List Byte} {o n : Nat} (h : o + n ≤ a.length) (b : List Byte) :
    field (a ++ b) o n = field a o n := by
  rw [field, List.drop_append_of_le_length (by omega), List.take_append_of_le_length (by simp; omega), field]

/-- A field behind the first part of a body. -/
theorem field_append_right {a : List Byte} {o : Nat} (h : a.length ≤ o) (b : List Byte) (n : Nat) :
    field (a ++ b) o n = field b (o - a.length) n := by
  rw [field, List.drop_append, List.drop_eq_nil_of_le h, List.nil_append, field]

theorem field_leBytes {n v : Nat} (h : fits n v = true) : field (leBytes n v) 0 n = v := by
  rw [field, List.drop_zero, List.take_of_length_le (leBytes_length n v).le, leNat_leBytes (of_decide_eq_true h)]

/-- Two's complement over 16 bits gives a signed value back. -/
theorem signed16_field {v : Int} (h : fitsSigned v = true) : signed16 (field (signedBytes v) 0 2) = v := by
  have hv := of_decide_eq_true h
  have hb : fits 2 (v % 65536).toNat = true := decide_eq_true (by omega)
  rw [signedBytes, field_leBytes hb, signed16]
  split <;> omega

/-! ## A table of records of one length -/

section records

variable {α : Type} {enc : α → List Byte} {k : Nat}

theorem records_length (hk : ∀ x, (enc x).length = k) (l : List α) : (l.flatMap enc).length = k * l.length := by
  simp [List.length_flatMap, hk, Nat.mul_comm]

/-- A field of record i is that field of its own bytes. -/
theorem field_records (hk : ∀ x, (enc x).length = k) {l : List α} {i : Nat} (hi : i < l.length) (o : Nat) {n : Nat}
    (ho : o + n ≤ k) : field (l.flatMap enc) (k * i + o) n = field (enc l[i]) o n := by
  induction l generalizing i with
  | nil => exact absurd hi (Nat.not_lt_zero i)
  | cons x xs ih =>
    rw [List.flatMap_cons]
    cases i with
    | zero => simpa using field_append_left (by rw [hk]; exact ho) _
    | succ i =>
      have hs : k * (i + 1) + o - (enc x).length = k * i + o := by rw [hk, Nat.mul_succ]; omega
      rw [field_append_right (by rw [hk, Nat.mul_succ]; omega), hs, ih (Nat.lt_of_succ_lt_succ hi)]
      rfl

end records

/-! ## The readings -/

theorem encodeReading_length (r : Reading) : (encodeReading r).length = 6 := by
  simp [encodeReading, signedBytes_length]

theorem decodeReading_encode {rs : List Reading} {i : Nat} (hi : i < rs.length) (h : rs[i].fits = true) :
    decodeReading (rs.flatMap encodeReading) i = rs[i] := by
  simp only [Reading.fits, Bool.and_eq_true] at h
  obtain ⟨⟨hl, ha⟩, hb⟩ := h
  have h0 : field (rs.flatMap encodeReading) (6 * i) 2 = _ := field_records encodeReading_length hi 0 (by decide)
  have h2 := field_records encodeReading_length hi 2 (n := 2) (by decide)
  have h4 := field_records encodeReading_length hi 4 (n := 2) (by decide)
  rw [decodeReading, h0, h2, h4]
  simp [encodeReading, field_append_left, field_append_right, signedBytes_length, signed16_field, hl, ha, hb]

theorem decodeReadings_encode {rs : List Reading} (h : rs.all Reading.fits = true) :
    (List.range ((rs.flatMap encodeReading).length / 6)).map (decodeReading (rs.flatMap encodeReading)) = rs := by
  rw [records_length encodeReading_length, Nat.mul_div_cancel_left _ (by decide)]
  refine List.ext_getElem (by simp) fun i _ hi => ?_
  rw [List.getElem_map, List.getElem_range, decodeReading_encode hi (List.all_eq_true.mp h _ (List.getElem_mem hi))]

/-! ## The swath report -/

/-- A channel's nine bytes. -/
def encodeDrops (d : DropCounts) : List Byte := leBytes 3 d.small ++ leBytes 3 d.medium ++ leBytes 3 d.large

theorem encodeDrops_length (d : DropCounts) : (encodeDrops d).length = 9 := by simp [encodeDrops, leBytes_length]

/-- The fields ahead of the drop counts. -/
def swathHead (r : SwathReport) : List Byte :=
  leBytes 1 r.handle ++ leBytes 2 r.sequence ++ signedBytes r.temperature

theorem swathHead_length (r : SwathReport) : (swathHead r).length = 5 := by
  simp [swathHead, leBytes_length, signedBytes_length]

theorem encodeSwath_eq (r : SwathReport) : encodeSwath r = swathHead r ++ r.drops.toList.flatMap encodeDrops := rfl

theorem encodeSwath_length (r : SwathReport) : (encodeSwath r).length = 113 := by
  simp [encodeSwath_eq, swathHead_length, records_length encodeDrops_length]

/-- A field of a channel's nine bytes. -/
theorem field_drops (r : SwathReport) {i : Nat} (hi : i < 12) (o : Nat) (ho : o + 3 ≤ 9) :
    field (encodeSwath r) (5 + o + 9 * i) 3 = field (encodeDrops r.drops[i]) o 3 := by
  have hs : 5 + o + 9 * i - (swathHead r).length = 9 * i + o := by rw [swathHead_length]; omega
  rw [encodeSwath_eq, field_append_right (by rw [swathHead_length]; omega), hs,
    field_records encodeDrops_length (by simpa using hi) o ho, Vector.getElem_toList]

theorem decodeSwath_encode {r : SwathReport} (h : r.fits = true) : decodeSwath (encodeSwath r) = r := by
  simp only [SwathReport.fits, Bool.and_eq_true, Vector.all_toList] at h
  obtain ⟨⟨⟨hh, hq⟩, ht⟩, hd⟩ := h
  have hdrops : (decodeSwath (encodeSwath r)).drops = r.drops := by
    refine Vector.ext fun i hi => ?_
    have hf := Vector.all_eq_true.mp hd i hi
    simp only [Bool.and_eq_true] at hf
    obtain ⟨⟨hs, hm⟩, hg⟩ := hf
    have h0 := field_drops r hi 0 (by decide)
    have h3 := field_drops r hi 3 (by decide)
    have h6 := field_drops r hi 6 (by decide)
    simp only [Nat.reduceAdd] at h0 h3 h6
    simp only [decodeSwath, Vector.getElem_ofFn, h0, h3, h6]
    simp [encodeDrops, field_append_left, field_append_right, leBytes_length, field_leBytes, hs, hm, hg]
  have hhead : (decodeSwath (encodeSwath r)) = { r with drops := (decodeSwath (encodeSwath r)).drops } := by
    simp [decodeSwath, encodeSwath_eq, swathHead, field_append_left, field_append_right, leBytes_length,
      signedBytes_length, field_leBytes, signed16_field, hh, hq, ht]
  rw [hhead, hdrops]

/-! ## The frames -/

theorem mkFrame_kind {kind : Nat} (h : kind < 256) (tag : Nat) (body : List Byte) :
    (mkFrame kind tag body).kind.toNat = kind := by
  simp [mkFrame, Nat.mod_eq_of_lt h]

theorem mkFrame_tag {tag : Nat} (h : fits 1 tag = true) (kind : Nat) (body : List Byte) :
    (mkFrame kind tag body).tag.toNat = tag := by
  have ht : tag < 256 := of_decide_eq_true h
  simp [mkFrame, Nat.mod_eq_of_lt ht]

/-- A body of the length that its kind carries. -/
theorem engineExactly_length {f : Frame} {n : Nat} (h : f.body.length = n) (c : Instr) :
    engineExactly f n c = .command c := if_pos h

/-- A kind that is none of the engine's five. -/
theorem decodeEngine_unknown {f : Frame} (h : engineKinds.contains f.kind.toNat = false) :
    decodeEngine f = .command (.engineUnknownKind f.tag.toNat f.kind.toNat) := by
  unfold decodeEngine
  split
  case h_6 => rfl
  all_goals
    rename_i hk
    rw [hk] at h
    cases h

/-- What the engine sends is read back: its kind chooses the command, its length is the kind's own, and each field
stands in its place (R164). -/
theorem decodeEngine_encode {c : Instr} {f : Frame} (h : c.wf = true) (hf : encodeEngine c = some f) :
    decodeEngine f = .command c := by
  cases c <;> simp only [encodeEngine, reduceCtorEq] at hf
  all_goals
    cases hf
    simp only [Instr.wf, Bool.and_eq_true, Bool.not_eq_true'] at h
  case engineReady t =>
    change EngineTaken.command (.engineReady _) = _
    rw [mkFrame_tag h]
  case swath t r =>
    change engineExactly _ 113 (.swath _ (decodeSwath (encodeSwath r))) = _
    rw [engineExactly_length (encodeSwath_length r), mkFrame_tag h.1, decodeSwath_encode h.2]
  case feedAsk t n d =>
    obtain ⟨⟨ht, hn⟩, hd⟩ := h
    change EngineTaken.command (.feedAsk _ (field (leBytes 1 n ++ leBytes 2 d) 0 1) (field (leBytes 2 d) 0 2)) = _
    rw [mkFrame_tag ht, field_append_left (Nat.le_refl 1), field_leBytes hn, field_leBytes hd]
  case printDone t n =>
    change EngineTaken.command (.printDone _ (field (leBytes 1 n) 0 1)) = _
    rw [mkFrame_tag h.1, field_leBytes h.2]
  case printFail t n k =>
    obtain ⟨⟨ht, hn⟩, hk⟩ := h
    change EngineTaken.command (.printFail _ (field (leBytes 1 n ++ leBytes 1 k) 0 1) (field (leBytes 1 k) 0 1)) = _
    rw [mkFrame_tag ht, field_append_left (Nat.le_refl 1), field_leBytes hn, field_leBytes hk]
  case engineUnknownKind t k =>
    obtain ⟨⟨ht, hk⟩, hu⟩ := h
    have hkind : (mkFrame k t []).kind.toNat = k := mkFrame_kind (of_decide_eq_true hk) ..
    rw [decodeEngine_unknown (by rw [hkind, hu]), hkind, mkFrame_tag ht]

/-- What the spectro head sends is read back (R111). -/
theorem decodeSpectro_encode {c : Instr} {f : Frame} (h : c.wf = true) (hf : encodeSpectro c = some f) :
    decodeSpectro f = c := by
  cases c <;> simp only [encodeSpectro, reduceCtorEq] at hf
  all_goals
    cases hf
    simp only [Instr.wf, Bool.and_eq_true] at h
  case calibrated t =>
    change Instr.calibrated _ = _
    rw [mkFrame_tag h]
  case calibrationFault t k =>
    change Instr.calibrationFault _ (field (leBytes 1 k) 0 1) = _
    rw [mkFrame_tag h.1, field_leBytes h.2]
  case readings t rs =>
    obtain ⟨⟨ht, hr⟩, _⟩ := h
    have hl : (rs.flatMap encodeReading).length % 6 = 0 := by
      rw [records_length encodeReading_length, Nat.mul_mod_right]
    change (if (rs.flatMap encodeReading).length % 6 = 0 then Instr.readings _ ((List.range
      ((rs.flatMap encodeReading).length / 6)).map (decodeReading (rs.flatMap encodeReading))) else _) = _
    rw [if_pos hl, decodeReadings_encode hr, mkFrame_tag ht]
  case scanFault t k =>
    change Instr.scanFault _ (field (leBytes 1 k) 0 1) = _
    rw [mkFrame_tag h.1, field_leBytes h.2]

/-- Settles O16: on each link, the frame of a message is read field by field. -/
theorem partnerRoundTrip : Obligations.PartnerRoundTrip := by
  unfold Obligations.PartnerRoundTrip
  exact fun c f h => ⟨decodeEngine_encode h, decodeSpectro_encode h⟩

end Sys2Proof.Machine
end

section
/-! PROOFS. The judging of a strip: the effective tolerances, one reading, the verdict and the largest ΔE (R120 to
R124). -/

namespace Sys2Proof.Machine

open Sys2Proof

/-! ## The effective tolerances (R121) -/

theorem clamp_eq (low high : Nat) (v : Int) : (clamp low high v : Int) = max (low : Int) (min (high : Int) v) := by
  unfold clamp
  omega

theorem clamp_bounds {low high : Nat} (h : low ≤ high) (v : Int) :
    low ≤ clamp low high v ∧ clamp low high v ≤ high := by
  unfold clamp
  omega

/-- Settles O53: both tolerances are clamps, the second from the first. -/
theorem toleranceRule : Obligations.ToleranceRule := by
  unfold Obligations.ToleranceRule
  intro warn fail adj
  obtain ⟨hl, hu⟩ : 50 ≤ warnEffective warn adj ∧ warnEffective warn adj ≤ 2550 := clamp_bounds (by decide) _
  obtain ⟨hw, hf⟩ : warnEffective warn adj ≤ failEffective warn fail adj ∧ failEffective warn fail adj ≤ 2550 :=
    clamp_bounds hu _
  exact ⟨clamp_eq .., clamp_eq .., hl, hw, hf, Nat.pow_le_pow_left hl 2, Nat.pow_le_pow_left hf 2⟩

/-! ## One reading (R120, R122) -/

theorem isValid_iff (r : Reading) : Reading.isValid r = true ↔ 0 ≤ r.valL ∧ r.valL ≤ 10000 ∧ -12800 ≤ r.valA ∧
    r.valA ≤ 12700 ∧ -12800 ≤ r.valB ∧ r.valB ≤ 12700 := by
  simp only [Reading.isValid, Bool.and_eq_true, decide_eq_true_eq, and_assoc]

theorem patchInRange_iff (p : Patch) : patchInRange p = true ↔ 0 ≤ p.targetL ∧ p.targetL ≤ 10000 ∧
    -12800 ≤ p.targetA ∧ p.targetA ≤ 12700 ∧ -12800 ≤ p.targetB ∧ p.targetB ≤ 12700 := by
  simp only [patchInRange, Bool.and_eq_true, decide_eq_true_eq, and_assoc]

theorem squaredDifference_eq (p : Patch) (r : Reading) : (squaredDifference p r : Int) =
    (r.valL - p.targetL) ^ 2 + (r.valA - p.targetA) ^ 2 + (r.valB - p.targetB) ^ 2 := by
  simp only [squaredDifference, Nat.cast_add, Nat.cast_pow, Int.natCast_natAbs, sq_abs]

theorem judgeReading_valid {r : Reading} (h : Reading.isValid r = true) (warn fail : Nat) (p : Patch) :
    judgeReading warn fail p r = ⟨p, ⟨r, true, some (squaredDifference p r),
      decide (warn ^ 2 < squaredDifference p r), decide (fail ^ 2 < squaredDifference p r)⟩⟩ := if_pos h

theorem judgeReading_invalid {r : Reading} (h : ¬Reading.isValid r = true) (warn fail : Nat) (p : Patch) :
    judgeReading warn fail p r = ⟨p, ⟨r, false, none, false, false⟩⟩ := if_neg h

/-- The largest differences that targets and readings in range leave room for (R122). -/
theorem difference_bounds {p : Patch} {r : Reading} (hr : Reading.isValid r = true) (hp : patchInRange p = true) :
    (r.valL - p.targetL).natAbs ≤ 10000 ∧ (r.valA - p.targetA).natAbs ≤ 25500 ∧
    (r.valB - p.targetB).natAbs ≤ 25500 := by
  rw [isValid_iff] at hr
  rw [patchInRange_iff] at hp
  omega

theorem squaredDifference_le {p : Patch} {r : Reading} (hr : Reading.isValid r = true) (hp : patchInRange p = true) :
    squaredDifference p r ≤ 1400500000 := by
  obtain ⟨hl, ha, hb⟩ := difference_bounds hr hp
  calc squaredDifference p r ≤ 10000 ^ 2 + 25500 ^ 2 + 25500 ^ 2 :=
        Nat.add_le_add (Nat.add_le_add (Nat.pow_le_pow_left hl 2) (Nat.pow_le_pow_left ha 2)) (Nat.pow_le_pow_left hb 2)
    _ = 1400500000 := rfl

/-- Settles O51: a valid reading and one out of range, each by its own equation. -/
theorem judgingRule : Obligations.JudgingRule := by
  unfold Obligations.JudgingRule
  intro warn fail p r
  simp only [← squaredDifference_eq, ← isValid_iff]
  by_cases hv : Reading.isValid r = true
  · rw [judgeReading_valid hv]
    refine ⟨rfl, rfl, fun _ => ⟨rfl, ⟨_, rfl, rfl⟩, ?_, ?_⟩, fun _ hp => ?_, fun h => absurd hv h⟩
    · rw [decide_eq_true_iff]
      exact_mod_cast Iff.rfl
    · rw [decide_eq_true_iff]
      exact_mod_cast Iff.rfl
    · obtain ⟨hl, ha, hb⟩ := difference_bounds hv hp
      exact ⟨hl, ha, hb, by exact_mod_cast squaredDifference_le hv hp⟩
  · rw [judgeReading_invalid hv]
    exact ⟨rfl, rfl, fun h => absurd h hv, fun h => absurd h hv, fun _ => ⟨rfl, rfl, rfl, rfl⟩⟩

/-! ## The verdict (R123) -/

section verdict

variable {js : List Judged}

theorem overFailCount_pos : 0 < overFailCount js ↔ ∃ j ∈ js, j.entry.overFail = true := by
  simp [overFailCount, List.length_pos_iff, List.filter_eq_nil_iff]

theorem overWarnCount_pos : 0 < overWarnCount js ↔ ∃ j ∈ js, j.entry.overWarn = true := by
  simp [overWarnCount, List.length_pos_iff, List.filter_eq_nil_iff]

/-- A patch over fail, a critical patch over warn, or more than four patches over warn. -/
def Failing (js : List Judged) : Prop :=
  (∃ j ∈ js, j.entry.overFail = true) ∨ (∃ j ∈ js, j.patch.critical = true ∧ j.entry.overWarn = true) ∨
    4 < overWarnCount js

theorem baseVerdict_fail (h : Failing js) : baseVerdict js = .fail := by
  refine if_pos ?_
  simpa [Failing, overFailCount_pos] using h

theorem baseVerdict_passing (h : ¬Failing js) : baseVerdict js =
    if 0 < overWarnCount js then .warn else .pass := by
  refine if_neg ?_
  simpa [Failing, overFailCount_pos] using h

theorem baseVerdict_pass (h : ¬Failing js) (hw : ¬0 < overWarnCount js) : baseVerdict js = .pass :=
  (baseVerdict_passing h).trans (if_neg hw)

theorem baseVerdict_warn (h : ¬Failing js) (hw : 0 < overWarnCount js) : baseVerdict js = .warn :=
  (baseVerdict_passing h).trans (if_pos hw)

/-- Only a judged scan without a patch over warn has the base verdict PASS. -/
theorem passBase_iff : passBase js = true ↔ invalidCount js < 3 ∧ ¬Failing js ∧ ¬0 < overWarnCount js := by
  rw [passBase, Bool.and_eq_true, decide_eq_true_iff, beq_iff_eq]
  refine and_congr_right fun _ => ⟨fun hb => ?_, fun ⟨hf, hw⟩ => baseVerdict_pass hf hw⟩
  have hf : ¬Failing js := fun hf => by
    rw [baseVerdict_fail hf] at hb
    cases hb
  refine ⟨hf, fun hw => ?_⟩
  rw [baseVerdict_warn hf hw] at hb
  cases hb

variable (stale : Bool) (gap : Nat)

theorem scanVerdict_unchecked (h : ¬invalidCount js < 3) : scanVerdict stale gap js = .unchecked :=
  if_pos (Nat.not_lt.mp h)

theorem scanVerdict_fail (h : invalidCount js < 3) (hf : Failing js) : scanVerdict stale gap js = .fail := by
  rw [scanVerdict, if_neg (Nat.not_le.mpr h), baseVerdict_fail hf]

theorem scanVerdict_warn (h : invalidCount js < 3) (hf : ¬Failing js) (hw : 0 < overWarnCount js) :
    scanVerdict stale gap js = .warn := by
  rw [scanVerdict, if_neg (Nat.not_le.mpr h), baseVerdict_warn hf hw]

/-- Stale calibration and a long gap downgrade a PASS. -/
theorem scanVerdict_pass (h : invalidCount js < 3) (hf : ¬Failing js) (hw : ¬0 < overWarnCount js) :
    scanVerdict stale gap js = if stale = true ∨ 120000 < gap then .warn else .pass := by
  rw [scanVerdict, if_neg (Nat.not_le.mpr h), baseVerdict_pass hf hw]
  simp [gapIsLong]

end verdict

/-- Settles O50: the base verdict by its two tests, and its downgrade where it is PASS. -/
theorem verdictRule : Obligations.VerdictRule := by
  unfold Obligations.VerdictRule
  intro job tag stale gap readings r js failing warning few
  have hv : r.verdict = scanVerdict stale gap js := rfl
  have hs : r.stalePass = (passBase js && stale) := rfl
  have hg : r.longGapPass = (passBase js && gapIsLong gap) := rfl
  have hn : few ↔ invalidCount js < 3 := Iff.rfl
  have hf : failing ↔ Failing js := Iff.rfl
  have hw : warning ↔ 0 < overWarnCount js := overWarnCount_pos.symm
  simp only [hv, hs, hg, hn, hf, hw, Bool.and_eq_true, passBase_iff, gapIsLong, decide_eq_true_eq, and_assoc, and_true]
  by_cases judged : invalidCount js < 3
  case neg => simp [scanVerdict_unchecked _ _ judged, judged]
  by_cases fails : Failing js
  case pos => simp [scanVerdict_fail _ _ judged fails, judged, fails]
  by_cases warns : 0 < overWarnCount js
  case pos => simp [scanVerdict_warn _ _ judged fails warns, judged, fails, warns]
  rw [scanVerdict_pass _ _ judged fails warns]
  by_cases long : 120000 < gap
  · simp [judged, fails, warns, long]
  · cases stale <;> simp [judged, fails, warns, long, Nat.not_lt.mp long]

/-! ## The largest ΔE (R124) -/

/-- The bits below bit k that the search adds leave the root's square within n and the next square beyond it. -/
theorem sqrtBits_spec (k n r : Nat) (hl : r ^ 2 ≤ n) (hu : n < (r + 2 ^ k) ^ 2) :
    sqrtBits k n r ^ 2 ≤ n ∧ n < (sqrtBits k n r + 1) ^ 2 := by
  induction k generalizing r with
  | zero => exact ⟨hl, hu⟩
  | succ k ih =>
    unfold sqrtBits
    split
    · rename_i h
      refine ih _ (by rwa [sq]) ?_
      rwa [Nat.add_assoc, ← Nat.two_mul, ← pow_succ']
    · rename_i h
      exact ih _ hl (by rw [sq]; exact Nat.not_le.mp h)

theorem squareRoot_spec (n : Nat) : squareRoot n ^ 2 ≤ n ∧ n < (squareRoot n + 1) ^ 2 := by
  refine sqrtBits_spec _ n 0 (Nat.zero_le n) ?_
  have hb : n < 2 ^ (n.log2 + 1) := Nat.lt_log2_self
  calc n < 2 ^ (n.log2 + 1) := hb
    _ ≤ 2 ^ ((n.log2 / 2 + 1) * 2) := Nat.pow_le_pow_right (by decide) (by omega)
    _ = (0 + 2 ^ (n.log2 / 2 + 1)) ^ 2 := by rw [Nat.zero_add, pow_mul]

theorem largestFrom_none (k : Nat) (js : List Judged) :
    largestFrom k js = none ↔ ∀ j ∈ js, j.entry.squared = none := by
  induction js generalizing k with
  | nil => simp [largestFrom]
  | cons j js ih =>
    rw [List.forall_mem_cons, ← ih (k + 1)]
    cases hj : j.entry.squared <;> cases hr : largestFrom (k + 1) js <;> simp [largestFrom, hj, hr]
    split <;> simp

/-- d is the largest squared difference of the strip, and place i the first that gives it. -/
structure Largest (js : List Judged) (d i : Nat) : Prop where
  gives : ∃ j, js[i]? = some j ∧ j.entry.squared = some d
  most : ∀ x ∈ js, ∀ e, x.entry.squared = some e → e ≤ d
  first : ∀ n x, n < i → js[n]? = some x → ∀ e, x.entry.squared = some e → e < d

/-- A patch ahead of the strip that gives less, or nothing. -/
theorem Largest.cons {js : List Judged} {d i : Nat} (l : Largest js d i) {j : Judged}
    (hj : ∀ e, j.entry.squared = some e → e < d) : Largest (j :: js) d (i + 1) where
  gives := l.gives
  most := List.forall_mem_cons.mpr ⟨fun e he => (hj e he).le, l.most⟩
  first n x hn hx := by
    cases n with
    | zero =>
      cases hx
      exact hj
    | succ n => exact l.first n x (by omega) hx

/-- A patch ahead of the strip that gives as much as any of it. -/
theorem Largest.head {js : List Judged} {d : Nat} {j : Judged} (hj : j.entry.squared = some d)
    (hm : ∀ x ∈ js, ∀ e, x.entry.squared = some e → e ≤ d) : Largest (j :: js) d 0 where
  gives := ⟨j, rfl, hj⟩
  most := List.forall_mem_cons.mpr ⟨fun _ he => (Option.some.inj (he.symm.trans hj)).le, hm⟩
  first n _ hn := absurd hn (Nat.not_lt_zero n)

theorem largestFrom_some {k d m : Nat} {js : List Judged} (h : largestFrom k js = some (d, m)) :
    ∃ i, m = k + i ∧ Largest js d i := by
  induction js generalizing k d m with
  | nil => cases h
  | cons j js ih =>
    unfold largestFrom at h
    split at h
    · rename_i hj
      obtain ⟨i, rfl, l⟩ := ih h
      exact ⟨i + 1, by omega, l.cons (by simp [hj])⟩
    · rename_i hj hr
      cases h
      refine ⟨0, rfl, .head hj fun x hx e he => ?_⟩
      rw [(largestFrom_none _ _).mp hr x hx] at he
      cases he
    · rename_i hj hr
      obtain ⟨i, hi, l⟩ := ih hr
      split at h
      · rename_i hlt
        cases h
        exact ⟨i + 1, by omega, l.cons fun _ he => Option.some.inj (hj.symm.trans he) ▸ hlt⟩
      · rename_i hle
        cases h
        exact ⟨0, rfl, .head hj fun x hx e he => (l.most x hx e he).trans (Nat.not_lt.mp hle)⟩

/-- Settles O52: the root bit by bit, and the largest of the strip from its end. -/
theorem largestDifferenceRule : Obligations.LargestDifferenceRule := by
  unfold Obligations.LargestDifferenceRule
  refine ⟨squareRoot_spec, fun js => ⟨?_, fun e k h => ?_⟩⟩
  · rw [largestDifference, Option.map_eq_none_iff, largestFrom_none]
  · obtain ⟨⟨d, m⟩, hm, he⟩ := Option.map_eq_some_iff.mp h
    obtain ⟨rfl, rfl⟩ := Prod.ext_iff.mp he
    obtain ⟨i, rfl, l⟩ := largestFrom_some hm
    obtain ⟨j, hj, hd⟩ := l.gives
    rw [Nat.add_sub_cancel_left]
    exact ⟨j, d, hj, Nat.le_add_right 1 i, hd, rfl, l.most, l.first⟩

end Sys2Proof.Machine
end

section
/-! PROOFS. The colour check unit: the requests that write a set, the calibrations, the end of a scan, and what a
verdict leaves in its print and its edition. -/

namespace Sys2Proof.Machine

open Sys2Proof

variable {s t : State}

/-! ## The reference sets (R107, R108) -/

theorem exec_referenceLoad (h : s.control.level ≠ .operator) (tag index count : Nat) (patches : List Patch)
    (warn fail : Nat) : exec (.referenceLoad tag index count patches warn fail) s =
      .next (referenceLoadRequest tag index count patches warn fail s) := congrArg _ (request_studio h ..)

theorem exec_referenceSeal (h : s.control.level ≠ .operator) (tag index : Nat) :
    exec (.referenceSeal tag index) s = .next (referenceSealRequest tag index s) := congrArg _ (request_studio h ..)

/-- A load in range is answered by the set's mode. -/
theorem referenceLoad_inRange {count warn fail : Nat} {patches : List Patch}
    (h : referenceInRange count patches warn fail = true) (tag : Nat) (i : Fin 32) (s : State) :
    referenceLoadRequest tag i.val count patches warn fail s =
      if (s.colour.sets[i]).mode ≠ .opened then reply tag .isProtected 0x28 .none s
      else reply tag .ok 0x28 (.refLoaded i.val count .opened) (writeSet i ⟨patches, warn, fail, .opened⟩ s) := by
  simp only [referenceLoadRequest, boundedOf_val, h, Bool.not_true, Bool.false_eq_true, if_false]

/-- A seal of a set in range is answered by its patches and its mode. -/
theorem referenceSeal_inRange (tag : Nat) (i : Fin 32) (s : State) : referenceSealRequest tag i.val s =
    if (s.colour.sets[i]).patches = [] ∨ (s.colour.sets[i]).mode = .sealed then reply tag .state 0x29 .none s
    else reply tag .ok 0x29 (.refMode i.val .sealed) (writeSet i { s.colour.sets[i] with mode := .sealed } s) := by
  simp only [referenceSealRequest, boundedOf_val]

/-- Settles O25: each request by the set's patches and its mode. -/
theorem referenceWrites : Obligations.ReferenceWrites := by
  unfold Obligations.ReferenceWrites
  intro tag i s hl
  simp only [exec_referenceLoad hl, exec_referenceSeal hl, referenceSeal_inRange]
  refine ⟨fun patches warn fail hr => ?_, fun hp hm => ?_, fun h => ?_⟩
  · rw [referenceLoad_inRange hr]
    exact ⟨fun ho => congrArg _ (if_neg (not_not.mpr ho)), fun ho => congrArg _ (if_pos ho)⟩
  · exact congrArg _ (if_neg (not_or.mpr ⟨hp, hm⟩))
  · exact congrArg _ (if_pos h)

/-! ## The calibrations (R112, R114 to R116) -/

theorem exec_calibrate (tag : Nat) (s : State) : exec (.calibrate tag) s = .next (calibrateRequest tag s) :=
  next_request_operator ..

theorem exec_calibrated (tag : Nat) (s : State) :
    exec (.calibrated tag) s = .next (calibrationAnswer tag completeCalibration s) := rfl

theorem exec_calibrationFault (tag cause : Nat) (s : State) : exec (.calibrationFault tag cause) s =
    .next (calibrationAnswer tag (failCalibration (.failedFault cause)) s) := rfl

theorem calibrateRequest_sends (hi : s.colour.spectro = .idle) (hp : s.colour.pending = none) (tag : Nat) :
    calibrateRequest tag s = reply tag .ok 0x2B (.spectroTag (nextSpectroTag s.colour.lastTag))
      (sendCalibrate true (s.mapColour fun u => { u with retryDeadline := none })) :=
  if_neg (by simp [hi, hp])

theorem calibrateRequest_busy (h : s.colour.spectro ≠ .idle ∨ s.colour.pending ≠ none) (tag : Nat) :
    calibrateRequest tag s = reply tag .busy 0x2B .none s :=
  if_pos (h.imp_right Option.isSome_iff_ne_none.mpr)

variable (ending : Bool → State → State)

/-- The answer with the tag in flight ends the calibration. -/
theorem calibrationAnswer_same {tag began deadline : Nat} {requested : Bool}
    (h : s.colour.spectro = .calibrating tag began deadline requested) :
    calibrationAnswer tag ending s = finish (ending requested s) := by
  simp only [calibrationAnswer, h, if_true]

theorem calibrationAnswer_other {tag other began deadline : Nat} {requested : Bool}
    (h : s.colour.spectro = .calibrating other began deadline requested) (hn : tag ≠ other) :
    calibrationAnswer tag ending s = s := by
  simp only [calibrationAnswer, h, Ne.symm hn, if_false]

theorem calibrationAnswer_ignored (h : ∀ t b d r, s.colour.spectro ≠ .calibrating t b d r) (tag : Nat) :
    calibrationAnswer tag ending s = s := by
  unfold calibrationAnswer
  split
  · rename_i hs
    exact absurd hs (h _ _ _ _)
  · rfl

theorem exec_calibrationTimeout {tag began deadline : Nat} {requested : Bool}
    (h : s.colour.spectro = .calibrating tag began deadline requested) (hd : deadline ≤ s.clock.now) :
    exec .calibrationTimeout s = .next (finish (failCalibration .failedTimeout requested s)) := by
  change (.next (calibrationExpires s) : Result) = _
  rw [calibrationExpires, h]
  simp only [timeTo_past hd]

theorem exec_calibrationRetryExpiry {d : Nat} (h : s.colour.retryDeadline = some d) (hd : d ≤ s.clock.now) :
    exec .calibrationRetryExpiry s =
      .next (refreshPanel (autoCalibrate (s.mapColour fun u => { u with retryDeadline := none }))) := by
  change (.next (retryExpires s) : Result) = _
  rw [retryExpires, h]
  simp only [timeTo_past hd]

/-- Settles O40: CALIBRATE by the head and the pending scan, its answers by the tag in flight. -/
theorem calibration : Obligations.Calibration := by
  unfold Obligations.Calibration
  intro tag s
  simp only [exec_calibrate, exec_calibrated, exec_calibrationFault]
  refine ⟨fun hi hp => ?_, fun h => ?_, fun h => ?_, fun _ _ _ h => ?_, fun _ _ _ _ h hn => ?_,
    fun _ h hd => exec_calibrationRetryExpiry h hd⟩
  · rw [calibrateRequest_sends hi hp]
    rfl
  · rw [calibrateRequest_busy h]
  · simp only [calibrationAnswer_ignored _ h, implies_true, and_self]
  · simp only [calibrationAnswer_same _ h, implies_true, true_and]
    exact fun hd => exec_calibrationTimeout h hd
  · simp only [calibrationAnswer_other _ h hn, implies_true, and_self]

/-! ## The end of a scan (R117 to R119) -/

theorem exec_readings (tag : Nat) (list : List Reading) (s : State) :
    exec (.readings tag list) s = .next (readingsFrame tag list s) := rfl

theorem exec_scanFault (tag cause : Nat) (s : State) :
    exec (.scanFault tag cause) s = .next (scanFaultFrame tag cause s) := rfl

theorem exec_scanTimeout (s : State) : exec .scanTimeout s = .next (scanExpires s) := rfl

/-- A scan that the RESET request closed leaves its record alone. -/
theorem endScan_discarded (job : ScanJob) (tag : Nat) (stale : Bool) (r : ScanResult) (s : State) :
    endScan job tag stale true r s = s.mapColour fun u =>
      { u with spectro := .idle, lastScan := some (scanRecord job tag stale .discarded) } := rfl

section scan

variable {tag began deadline : Nat} {stale discarded : Bool} {job : ScanJob}

theorem readingsFrame_complete (h : s.colour.spectro = .scanning tag began deadline stale job discarded)
    {list : List Reading} (hl : list.length = job.patches.length) : readingsFrame tag list s =
      scanEnds job tag stale discarded (completedResult job tag stale (s.gapOf job.handle) list) (countScan s) := by
  simp only [readingsFrame, h, hl, if_true]

theorem readingsFrame_length (h : s.colour.spectro = .scanning tag began deadline stale job discarded)
    {list : List Reading} (hl : list.length ≠ job.patches.length) : readingsFrame tag list s =
      scanEnds job tag stale discarded (faultedScan job tag stale .length .length) s := by
  simp only [readingsFrame, h, hl, if_true, if_false]

theorem readingsFrame_other (h : s.colour.spectro = .scanning tag began deadline stale job discarded)
    {other : Nat} (hn : other ≠ tag) (list : List Reading) : readingsFrame other list s = s := by
  simp only [readingsFrame, h, Ne.symm hn, if_false]

theorem scanFaultFrame_same (h : s.colour.spectro = .scanning tag began deadline stale job discarded) (cause : Nat) :
    scanFaultFrame tag cause s =
      scanEnds job tag stale discarded (faultedScan job tag stale (.fault cause) (.fault cause)) s := by
  simp only [scanFaultFrame, h, if_true]

theorem scanFaultFrame_other (h : s.colour.spectro = .scanning tag began deadline stale job discarded)
    {other : Nat} (hn : other ≠ tag) (cause : Nat) : scanFaultFrame other cause s = s := by
  simp only [scanFaultFrame, h, Ne.symm hn, if_false]

theorem scanExpires_past (h : s.colour.spectro = .scanning tag began deadline stale job discarded)
    (hd : deadline ≤ s.clock.now) : scanExpires s =
      scanEnds job tag stale discarded (faultedScan job tag stale .timeout .timeout) s := by
  simp only [scanExpires, h, timeTo_past hd]

end scan

/-! ## An edition's entry after a verdict (R136 to R138) -/

section settled

variable {e : Edition}

theorem settled_frame (e : Edition) : ∃ st c, e.settled = { e with state := st, holdCause := c } := by
  unfold Edition.settled
  split
  · exact ⟨_, _, rfl⟩
  · split
    · exact ⟨_, _, rfl⟩
    · split <;> exact ⟨_, _, rfl⟩

/-- Both series of the entry are full. -/
def Edition.Full (e : Edition) : Prop := e.accepted = e.limit ∧ e.apAccepted = e.apLimit

theorem settled_full (hs : e.state = .opened ∨ e.state = .hold) (hf : e.Full) :
    e.settled = { e with state := .complete, holdCause := none } := if_pos ⟨hs, hf⟩

theorem settled_notFull (hf : ¬e.Full) : e.settled =
    if e.state = .opened ∧ 2 ≤ e.failRun then { e with state := .hold, holdCause := some .failRun }
    else if e.state = .opened ∧ 3 ≤ e.warnRun then { e with state := .hold, holdCause := some .warnRun }
    else e := if_neg fun h => hf h.2

theorem settled_failRun (ho : e.state = .opened) (hf : ¬e.Full) (hr : 2 ≤ e.failRun) :
    e.settled = { e with state := .hold, holdCause := some .failRun } := by
  rw [settled_notFull hf, if_pos ⟨ho, hr⟩]

theorem settled_warnRun (ho : e.state = .opened) (hf : ¬e.Full) (hr : e.failRun < 2) (hw : 3 ≤ e.warnRun) :
    e.settled = { e with state := .hold, holdCause := some .warnRun } := by
  rw [settled_notFull hf, if_neg fun h => absurd h.2 (Nat.not_le.mpr hr), if_pos ⟨ho, hw⟩]

/-- An entry that is not full stays as it is below the runs' thresholds, and where it is not OPEN. -/
theorem settled_stays (hf : ¬e.Full) (h : e.state = .opened → e.failRun < 2 ∧ e.warnRun < 3) : e.settled = e := by
  rw [settled_notFull hf, if_neg fun g => absurd g.2 (Nat.not_le.mpr (h g.1).1),
    if_neg fun g => absurd g.2 (Nat.not_le.mpr (h g.1).2)]

/-- The state that an entry is settled in, from its counts and runs (R137, R138). -/
theorem settled_state (e : Edition) :
    let full := e.settled.accepted = e.limit ∧ e.settled.apAccepted = e.apLimit
    (e.state = .opened ∨ e.state = .hold → full → e.settled.state = .complete ∧ e.settled.holdCause = none) ∧
    (e.state = .opened → ¬full → 2 ≤ e.settled.failRun →
      e.settled.state = .hold ∧ e.settled.holdCause = some .failRun) ∧
    (e.state = .opened → ¬full → e.settled.failRun < 2 → 3 ≤ e.settled.warnRun →
      e.settled.state = .hold ∧ e.settled.holdCause = some .warnRun) ∧
    (e.state = .opened → ¬full → e.settled.failRun < 2 → e.settled.warnRun < 3 → e.settled.state = .opened) ∧
    (e.state = .hold → ¬full → e.settled.state = .hold ∧ e.settled.holdCause = e.holdCause) := by
  have hk : e.settled.accepted = e.accepted ∧ e.settled.apAccepted = e.apAccepted ∧ e.settled.failRun = e.failRun ∧
      e.settled.warnRun = e.warnRun := by
    obtain ⟨_, _, h⟩ := settled_frame e
    rw [h]
    exact ⟨rfl, rfl, rfl, rfl⟩
  obtain ⟨ha, hp, hr, hw⟩ := hk
  rw [ha, hp, hr, hw]
  refine ⟨fun hs hf => ?_, fun ho hf h2 => ?_, fun ho hf h2 h3 => ?_, fun ho hf h2 h3 => ?_, fun hh hf => ?_⟩
  · rw [settled_full hs hf]
    exact ⟨rfl, rfl⟩
  · rw [settled_failRun ho hf h2]
    exact ⟨rfl, rfl⟩
  · rw [settled_warnRun ho hf h2 h3]
    exact ⟨rfl, rfl⟩
  · rw [settled_stays hf fun _ => ⟨h2, h3⟩, ho]
  · rw [settled_stays hf fun ho => nomatch hh.symm.trans ho]
    exact ⟨hh, rfl⟩

end settled

section judged

variable (e : Edition) (k : PrintKind) (v : Verdict) (o : PrintOutcome)

theorem ran_frame : ∃ w f, e.ran v = { e with warnRun := w, failRun := f } := by cases v <;> exact ⟨_, _, rfl⟩

/-- The runs and the state leave the counts. -/
theorem judged_frame : ∃ w f st c,
    e.judged k v o = { e.counted k o with warnRun := w, failRun := f, state := st, holdCause := c } := by
  obtain ⟨w, f, hr⟩ := ran_frame (e.counted k o) v
  obtain ⟨st, c, hs⟩ := settled_frame ((e.counted k o).ran v)
  exact ⟨w, f, st, c, by rw [Edition.judged, hs, hr]⟩

/-- The counts leave the entry's name, its limits, its runs and its state. -/
theorem counted_frame : ∃ a b c d f g, e.counted k o = { e with
    inFlight := a, apInFlight := b, accepted := c, apAccepted := d, rejected := f, spoiled := g } := by
  cases o <;> cases k <;> exact ⟨_, _, _, _, _, _, rfl⟩

theorem judged_id : (e.judged k v o).id = e.id := by
  obtain ⟨_, _, _, _, h⟩ := judged_frame e k v o
  obtain ⟨_, _, _, _, _, _, hc⟩ := counted_frame e k o
  rw [h, hc]

/-- The verdict of an EDITION print changes the counts of its series alone. -/
theorem judged_edition : (e.judged .edition v o).inFlight = e.inFlight - 1 ∧
    (e.judged .edition v o).apInFlight = e.apInFlight ∧ (e.judged .edition v o).apAccepted = e.apAccepted ∧
    (o = .accepted → (e.judged .edition v o).accepted = e.accepted + 1) ∧
    (o ≠ .accepted → (e.judged .edition v o).accepted = e.accepted) := by
  obtain ⟨_, _, _, _, h⟩ := judged_frame e .edition v o
  rw [h]
  cases o <;> simp [Edition.counted, Edition.mapInFlight]

/-- The verdict of an ARTIST_PROOF print changes the counts of its series alone. -/
theorem judged_artistProof : (e.judged .artistProof v o).apInFlight = e.apInFlight - 1 ∧
    (e.judged .artistProof v o).inFlight = e.inFlight ∧ (e.judged .artistProof v o).accepted = e.accepted ∧
    (o = .accepted → (e.judged .artistProof v o).apAccepted = e.apAccepted + 1) ∧
    (o ≠ .accepted → (e.judged .artistProof v o).apAccepted = e.apAccepted) := by
  obtain ⟨_, _, _, _, h⟩ := judged_frame e .artistProof v o
  rw [h]
  cases o <;> simp [Edition.counted, Edition.mapInFlight]

theorem judged_rejected :
    (e.judged k v o).rejected = if o = .rejected then min 65535 (e.rejected + 1) else e.rejected := by
  obtain ⟨_, _, _, _, h⟩ := judged_frame e k v o
  rw [h]
  cases o <;> cases k <;> rfl

theorem judged_runs :
    (e.judged k v o).warnRun = (e.ran v).warnRun ∧ (e.judged k v o).failRun = (e.ran v).failRun := by
  obtain ⟨_, _, hs⟩ := settled_frame ((e.counted k o).ran v)
  obtain ⟨_, _, _, _, _, _, hc⟩ := counted_frame e k o
  rw [Edition.judged, hs, hc]
  cases v <;> exact ⟨rfl, rfl⟩

/-- What is settled at a verdict has the limits and the state of the entry. -/
theorem ran_counted_leaves : ((e.counted k o).ran v).limit = e.limit ∧ ((e.counted k o).ran v).apLimit = e.apLimit ∧
    ((e.counted k o).ran v).state = e.state ∧ ((e.counted k o).ran v).holdCause = e.holdCause := by
  obtain ⟨_, _, hr⟩ := ran_frame (e.counted k o) v
  obtain ⟨_, _, _, _, _, _, hc⟩ := counted_frame e k o
  rw [hr, hc]
  exact ⟨rfl, rfl, rfl, rfl⟩

end judged

/-! ## The verdict in the print and its edition (R125) -/

variable {p : PrintRecord} {id : Nat} {e : Edition} (o : PrintOutcome) (r : ScanResult)

theorem recordVerdict_findPrint (hp : s.findPrint p.handle = some p) :
    (recordVerdict p o r s).findPrint p.handle = some { p with
      verdict := some r.verdict, largestDE := r.largest.map (·.1), outcome := some o, number := numberFor p o s
      state := .separate } :=
  findPrint_mapPrint (s := s.mapEditionOf p fun e => e.judged p.kind r.verdict o) _ (fun _ => rfl)
    ((findPrint_queue (by rw [State.mapEditionOf_queue]) _).trans hp)

theorem recordVerdict_findEdition (hi : p.editionId = some id) (he : s.findEdition id = some e) :
    (recordVerdict p o r s).findEdition id = some (e.judged p.kind r.verdict o) := by
  have h := findEdition_mapEditionOf he p (fun e => e.judged p.kind r.verdict o) fun e => judged_id e ..
  rwa [if_pos hi] at h

/-- Only an accepted print is numbered. -/
theorem numberFor_refused (h : o ≠ .accepted) (p : PrintRecord) (s : State) : numberFor p o s = none := by
  unfold numberFor
  split
  · exact if_neg h
  · rfl

theorem numberFor_accepted (hi : p.editionId = some id) (he : s.findEdition id = some e) :
    numberFor p .accepted s = e.nextNumber p.kind := by
  simp only [numberFor, hi, Option.bind_some, he, if_true]

/-- Settles O41: a scan's ends by their equations, and the verdict's effects by the record and the entry that are found
again. -/
theorem scanEnds_holds : Obligations.ScanEnds := by
  unfold Obligations.ScanEnds
  refine ⟨fun tag began deadline stale discarded job s h => ?_, fun p o r s hp => ?_⟩
  · simp only [exec_readings, exec_scanFault, exec_scanTimeout]
    refine ⟨fun list hl => ?_, fun list hl => ?_, fun cause => ?_, fun hd => ?_, fun other list hn => ?_,
      fun other cause hn => ?_, fun hd r a => ?_⟩
    · rw [readingsFrame_complete h hl]
      rfl
    · rw [readingsFrame_length h hl]
      rfl
    · rw [scanFaultFrame_same h]
      rfl
    · rw [scanExpires_past h hd]
      rfl
    · rw [readingsFrame_other h hn]
    · rw [scanFaultFrame_other h hn]
    · rw [hd, endScan_discarded]
      rfl
  · refine ⟨_, recordVerdict_findPrint o r hp, fun ho => numberFor_refused o ho p s, fun id e hi he =>
      ⟨_, recordVerdict_findEdition o r hi he, fun hk => ?_, fun hk => ?_, judged_rejected .., ?_, ?_⟩⟩
    · obtain ⟨hf, haf, haa, ha, hn⟩ := judged_edition e r.verdict o
      rw [hk]
      refine ⟨hf, haf, haa, fun ho => ⟨ha ho, ?_⟩, hn⟩
      rw [ho, numberFor_accepted hi he, hk, ← ho, ha ho]
      rfl
    · obtain ⟨hf, haf, haa, ha, hn⟩ := judged_artistProof e r.verdict o
      rw [hk]
      refine ⟨hf, haf, haa, fun ho => ⟨ha ho, ?_⟩, hn⟩
      rw [ho, numberFor_accepted hi he, hk, ← ho, ha ho]
      rfl
    · obtain ⟨hw, hf⟩ := judged_runs e p.kind r.verdict o
      rw [hw, hf]
      cases r.verdict <;> rfl
    · have h := settled_state ((e.counted p.kind o).ran r.verdict)
      obtain ⟨hl, ha, hs, hc⟩ := ran_counted_leaves e p.kind r.verdict o
      rwa [hl, ha, hs, hc] at h

end Sys2Proof.Machine
end

section
/-! PROOFS. FACTORY_RESTORE, the verdict latch, and the traffic of the links. -/

namespace Sys2Proof.Machine

open Sys2Proof

variable {s t : State}

/-! ## FACTORY_RESTORE (R188, R208) -/

theorem exec_factoryRestore (h : s.control.level = .service) (tag : Nat) :
    exec (.factoryRestore tag) s = .next (factoryRequest tag s) := congrArg _ (request_service h ..)

/-- A print in the queue, a feed, or a stop, with a feed's owner or without. -/
theorem factoryBusy_iff : (s.queue.prints ≠ [] ∨ s.feeding = true ∨ s.ownerlessStop = true) ↔
    s.queue.prints ≠ [] ∨ s.media.feed ≠ none ∨ s.media.state = .stoppedAtStation := by
  cases hf : s.media.feed <;> simp [State.feeding, State.ownerlessStop, hf]

theorem factoryRequest_busy (h : s.queue.prints ≠ [] ∨ s.media.feed ≠ none ∨ s.media.state = .stoppedAtStation)
    (tag : Nat) : factoryRequest tag s = reply tag .busy 0x08 .none s := if_pos (factoryBusy_iff.mpr h)

/-- What follows the factory values once they are written. -/
def factoryFollowed (s : State) : State := finish (releaseChecks (haltUpdate (flushUnmasked s)))

theorem factoryFollowed_kept (s : State) : Kept s (factoryFollowed s) :=
  finish_kept (releaseChecks_kept (haltUpdate_kept (flushUnmasked_kept (.refl s))))

theorem factoryRequest_restores (hq : s.queue.prints = []) (hf : s.media.feed = none)
    (hm : s.media.state ≠ .stoppedAtStation) (tag : Nat) : factoryRequest tag s =
      reply tag .ok 0x08 (.restored s.registry.table.length
        (s.colour.fixedCount - (releaseSets (factoryTables s)).colour.fixedCount))
        (factoryFollowed (releaseSets (factoryTables s))) :=
  if_neg (factoryBusy_iff.not.mpr (by simp [hq, hf, hm]))

/-- No kind is masked once the factory values are written (R188). -/
theorem factory_unmasked (kind : NoticeKind) (s : State) :
    ((releaseSets (factoryTables s)).notice kind).mask = false := by
  simp [State.notice, releaseSets, factoryTables, factoryControl]

/-- The sets keep their contents while the factory values are written (R109, R208). -/
theorem factoryWritten_spares (s : State) (i : Fin 32) :
    SetKept s.colour.sets[i] (releaseSets (factoryTables s)).colour.sets[i] :=
  (releaseSets_kept (.refl (factoryTables s))).sets i

/-! ## The verdict latch (R175) -/

theorem exec_clearFaultVerdictLatch (tag : Nat) (s : State) :
    exec (.clearFaultVerdictLatch tag) s = .next (clearLatchRequest tag s) := next_request_operator ..

/-- Settles O34: the factory values are written, and what follows keeps what every operation keeps. -/
theorem factoryAndLatch : Obligations.FactoryAndLatch := by
  unfold Obligations.FactoryAndLatch
  intro tag s
  refine ⟨fun hs hq hf hm => ?_, fun hs hb => ?_, fun l hl => ?_, fun hl => ?_⟩
  · intro a
    have ha : a = releaseSets (factoryTables s) := rfl
    clear_value a
    subst ha
    have written := factoryWritten_spares s
    have followed := factoryFollowed_kept (releaseSets (factoryTables s))
    refine ⟨factoryFollowed (releaseSets (factoryTables s)), rfl, ?_, followed.stored,
      fun kind => (followed.masks kind).trans (factory_unmasked kind s), followed.closed, followed.log,
      fun i => (written i).trans (followed.sets i)⟩
    rw [exec_factoryRestore hs, factoryRequest_restores hq hf hm]
  · rw [exec_factoryRestore hs, factoryRequest_busy hb]
  · rw [exec_clearFaultVerdictLatch, clearLatchRequest, hl]
    rfl
  · rw [exec_clearFaultVerdictLatch, clearLatchRequest, hl]

/-! ## The links (R112, R179, R182, R183) -/

theorem exec_linkByteReceived (l : Link) (b : Byte) (s : State) :
    exec (.linkByteReceived l b) s = .next (refreshPanel (receiveByte l b s)) := rfl

theorem exec_sendListDrain (n : Nat) (s : State) :
    exec (.sendListDrain n) s = .next (refreshPanel (drainSendList n s)) := rfl

/-- In HUNT the start marker begins a frame and any other byte is discarded. -/
theorem receiveByte_hunt {l : Link} (h : (s.link l).receiver = .hunt) (b : Byte) :
    receiveByte l b s = if b = 0xA5#8 then goOn l (.length none) s else s := by
  simp only [receiveByte, h]

/-- The frames sent have left the send list. -/
def drained (n : Nat) (s : State) : State := s.mapControl fun k => { k with sendList := k.sendList.drop n }

theorem drainSendList_eq (n : Nat) (s : State) : drainSendList n s =
    if 16 < s.control.sendList.length ∧ s.control.sendList.length - n ≤ 16 then flushDeferred (drained n s)
    else drained n s := by
  rw [← List.length_drop]
  rfl

/-- Settles O36: a byte in HUNT by its value, and the drain by the send list's length before and after it. -/
theorem linkTraffic : Obligations.LinkTraffic := by
  unfold Obligations.LinkTraffic
  intro s
  simp only [exec_linkByteReceived, exec_sendListDrain, drainSendList_eq]
  refine ⟨fun b h hb => ?_, fun h => ?_, fun tag kind => rfl, fun f => rfl, fun n hl => ?_, fun n hl => ?_,
    fun n hl hn => ?_⟩
  · rw [receiveByte_hunt (l := .control) h, if_neg hb]
  · rw [receiveByte_hunt (l := .control) h, if_pos rfl]
    rfl
  · rw [if_neg fun g => absurd g.1 (Nat.not_lt.mpr hl)]
    rfl
  · rw [if_neg fun g => absurd g.2 (Nat.not_le.mpr hl)]
    rfl
  · rw [if_pos ⟨hl, hn⟩]
    rfl

end Sys2Proof.Machine
end

section
/-! PROOFS. The editions: the closed ids and the law of the entries along every step, and the five requests of the
registry. -/

namespace Sys2Proof.Machine

open Sys2Proof

variable {s : State}

/-! ## Along every step -/

/-- Settles O12: every step leaves the closed ids at the head of their list, and the law of the editions is among the laws
of the work. -/
theorem closedIdsNeverLeave : Obligations.ClosedIdsNeverLeave := by
  unfold Obligations.ClosedIdsNeverLeave
  refine ⟨fun s t h => ?_, fun s t w h => ?_⟩ <;> obtain ⟨q, k⟩ := lawful_of_step h
  · exact k.closed
  · have l := (k.work w).editionLaw
    exact ⟨l, l.limits⟩

/-! ## The requests of the registry (R131 to R135, R142, R143) -/

section requests

variable {id : Nat} {e : Edition} (tag : Nat)

theorem exec_editionOpen (h : s.control.level ≠ .operator) (id : Nat) (title : List Byte)
    (limit apLimit refSet mediaType : Nat) : exec (.editionOpen tag id title limit apLimit refSet mediaType) s =
      .next (editionOpenRequest tag id title limit apLimit refSet mediaType s) := congrArg _ (request_studio h ..)

theorem exec_editionHold (h : s.control.level ≠ .operator) (id : Nat) :
    exec (.editionHold tag id) s = .next (editionHoldRequest tag id s) := congrArg _ (request_studio h ..)

theorem exec_editionResume (h : s.control.level ≠ .operator) (id : Nat) :
    exec (.editionResume tag id) s = .next (editionResumeRequest tag id s) := congrArg _ (request_studio h ..)

theorem exec_editionClose (h : s.control.level ≠ .operator) (id : Nat) :
    exec (.editionClose tag id) s = .next (editionCloseRequest tag id s) := congrArg _ (request_studio h ..)

theorem exec_editionArchive (h : s.control.level ≠ .operator) (id : Nat) :
    exec (.editionArchive tag id) s = .next (editionArchiveRequest tag id s) := congrArg _ (request_studio h ..)

/-! ### With an entry for the id: tests of its state, and then of the queue and the closed ids -/

theorem editionHoldRequest_eq (he : s.findEdition id = some e) : editionHoldRequest tag id s =
    if e.state = .opened then
      let a := haltUpdate (holdEffects id (s.mapEdition id fun x => { x with state := .hold, holdCause := some .request }))
      reply tag .ok 0x31 (editionStateReply id a) (finish a)
    else reply tag .state 0x31 .none s := by
  simp only [editionHoldRequest, he]

theorem editionResumeRequest_eq (he : s.findEdition id = some e) : editionResumeRequest tag id s =
    if e.state = .hold then
      let a := editionNotice (fun _ => .resumed) id (releaseChecks
        (s.mapEdition id fun x => { x with state := .opened, holdCause := none, warnRun := 0, failRun := 0 }))
      reply tag .ok 0x32 (resumedReply id a) (finish a)
    else reply tag .state 0x32 .none s := by
  simp only [editionResumeRequest, he]

/-- The closed ids after a close are one more (R142). -/
theorem closeEdition_count (id : Nat) (s : State) :
    (closeEdition id s).registry.closedIds.length = s.registry.closedIds.length + 1 := by
  simp [closeEdition]

theorem editionNotice_restarted (news : Edition → EditionNews) (id : Nat) (s : State) :
    Restarted s (editionNotice news id s) := by
  unfold editionNotice
  split
  · exact raise_restarted _ s
  · exact .refl s

/-- A close and what is told of it take no time. -/
theorem closed_clock (id : Nat) (s : State) :
    (haltUpdate (editionNotice Edition.closedNews id (releaseSets (closeEdition id s)))).clock = s.clock := by
  rw [(haltUpdate_restarted _).clock, (editionNotice_restarted _ _ _).clock, releaseSets, State.mapColour_clock,
    closeEdition, State.mapEdition_clock]

theorem editionCloseRequest_eq (he : s.findEdition id = some e) : editionCloseRequest tag id s =
    if e.state = .closed then reply tag .state 0x33 .none s
    else if s.editionQueued id = true then reply tag .busy 0x33 .none s
    else if 1024 ≤ s.registry.closedIds.length then reply tag .full 0x33 .none s
    else reply tag .ok 0x33 (.editionClosed .closed (s.clock.day.getD 0) (s.registry.closedIds.length + 1))
      (finish (releaseChecks (haltUpdate (editionNotice Edition.closedNews id (releaseSets (closeEdition id s)))))) := by
  simp only [editionCloseRequest, he, closed_clock, closeEdition_count, Config.closedRoom]

theorem editionArchiveRequest_eq (he : s.findEdition id = some e) : editionArchiveRequest tag id s =
    if e.state ≠ .closed then reply tag .state 0x34 .none s
    else if s.editionQueued id = true then reply tag .busy 0x34 .none s
    else
      let a := refreshPanel (haltUpdate (raise (.edition e.archivedNews e.counts)
        { s with registry := { s.registry with table := s.registry.table.filter fun x => x.id != id } }))
      reply tag .ok 0x34 (.editionsLeft a.registry.table.length) a := by
  simp only [editionArchiveRequest, he]

/-! ### An opening, and no entry for the id -/

/-- An opening by its tests in their order (R131, R132). -/
theorem editionOpenRequest_inRange {title : List Byte} {limit apLimit refSet mediaType : Nat}
    (hr : editionInRange id title limit apLimit refSet mediaType = true) :
    editionOpenRequest tag id title limit apLimit refSet mediaType s =
      if s.findEdition id ≠ none then reply tag .exists_ 0x30 .none s
      else if id ∈ s.registry.closedIds then reply tag .closedId 0x30 .none s
      else if 64 ≤ s.registry.table.length then reply tag .full 0x30 .none s
      else if (s.refSet refSet).patches = [] then reply tag .state 0x30 .none s
      else if mayShareSet s.registry.table (s.refSet refSet).mode refSet mediaType = false then
        reply tag .isProtected 0x30 .none s
      else reply tag .ok 0x30 (.edition id .opened) (finish (editionNotice Edition.openedNews id (releaseChecks
        { s with registry := { s.registry with table := s.registry.table ++
          [newEdition id title limit apLimit refSet mediaType (s.clock.day.getD 0)] } }))) := by
  simp only [editionOpenRequest, hr, Bool.not_true, Bool.false_eq_true, if_false, Option.isSome_iff_ne_none,
    List.contains_iff_mem, Bool.not_eq_true']
  rfl

theorem editionOpenRequest_range {title : List Byte} {limit apLimit refSet mediaType : Nat}
    (hr : editionInRange id title limit apLimit refSet mediaType = false) :
    editionOpenRequest tag id title limit apLimit refSet mediaType s = reply tag .range 0x30 .none s := by
  simp only [editionOpenRequest, hr, Bool.not_false, if_true]

theorem editionRequests_notFound (he : s.findEdition id = none) :
    editionHoldRequest tag id s = reply tag .notFound 0x31 .none s ∧
    editionResumeRequest tag id s = reply tag .notFound 0x32 .none s ∧
    editionCloseRequest tag id s = reply tag .notFound 0x33 .none s ∧
    editionArchiveRequest tag id s = reply tag .notFound 0x34 .none s := by
  simp only [editionHoldRequest, editionResumeRequest, editionCloseRequest, editionArchiveRequest, he, and_self]

end requests

/-- Settles O31: each request by its tests in their order. -/
theorem editionRequests : Obligations.EditionRequests := by
  unfold Obligations.EditionRequests
  intro tag id s hl
  simp only [exec_editionOpen tag hl, exec_editionHold tag hl, exec_editionResume tag hl, exec_editionClose tag hl,
    exec_editionArchive tag hl, Host.Outcome.next.injEq]
  refine ⟨fun title limit apLimit refSet mediaType hr he hc hf hp hm => ?_,
    fun title limit apLimit refSet mediaType => ⟨fun hr => editionOpenRequest_range tag hr, fun hr => ?_⟩,
    fun e he => ?_, fun e he ho => ?_, fun e he hh => ?_, fun e he hn hq hc => ?_, fun e he hc hq => ?_,
    fun he => editionRequests_notFound tag he⟩
  · rw [editionOpenRequest_inRange tag hr]
    simp [he, hc, hf, hp, hm]
  · rw [editionOpenRequest_inRange tag hr]
    refine ⟨fun h1 => ?_, fun h1 => ⟨fun h2 => ?_, fun h2 => ⟨fun h3 => ?_, fun h3 => ⟨fun h4 => ?_, fun h4 h5 => ?_⟩⟩⟩⟩
    · simp [h1]
    · simp [h1, h2]
    · simp [h1, h2, h3]
    · simp [h1, h2, h3, h4]
    · simp [h1, h2, h3, h4, h5]
  · rw [editionHoldRequest_eq tag he, editionResumeRequest_eq tag he, editionCloseRequest_eq tag he,
      editionArchiveRequest_eq tag he]
    refine ⟨fun h1 => if_neg h1, fun h1 => if_neg h1, fun h1 => if_pos h1, fun h1 h2 => ?_, fun h1 h2 h3 => ?_,
      fun h1 => if_pos h1, fun h1 h2 => ?_⟩
    · rw [if_neg h1, if_pos h2]
    · simp [h1, h2, h3]
    · rw [if_neg (not_not.mpr h1), if_pos h2]
  · rw [editionHoldRequest_eq tag he, if_pos ho]
  · rw [editionResumeRequest_eq tag he, if_pos hh]
  · simp [editionCloseRequest_eq tag he, hn, hq, hc]
  · simp [editionArchiveRequest_eq tag he, hc, hq]

end Sys2Proof.Machine
end

section
/-! PROOFS. The RESET request: the roll's state through all that a removed print lets begin, the close of every print
that is left, and what the part holds once the request is complete (R206, R207). -/

namespace Sys2Proof.Machine

open Sys2Proof

variable {s t : State}

/-! ## What leaves the transport alone -/

theorem haltUpdate_frame (s : State) : ∃ e k, haltUpdate s = { s with engine := e, control := k } := by
  unfold haltUpdate
  dsimp only
  split
  · exact ⟨_, _, rfl⟩
  · exact ⟨_, _, (raise_control _ (silenceStart (s.mapEngine fun e => { e with halt := s.haltLevel }))).choose_spec⟩

@[simp] theorem raise_media (b : NoticeBody) (s : State) : (raise b s).media = s.media := by
  obtain ⟨k, hk⟩ := raise_control b s
  rw [hk]

@[simp] theorem haltUpdate_media (s : State) : (haltUpdate s).media = s.media := by
  obtain ⟨e, k, hk⟩ := haltUpdate_frame s
  rw [hk]

@[simp] theorem printNotice_media (n : Nat) (news : PrintNews) (s : State) : (printNotice n news s).media = s.media := by
  obtain ⟨k, hk⟩ := printNotice_control n news s
  rw [hk]

@[simp] theorem editionNotice_media (news : Edition → EditionNews) (id : Nat) (s : State) :
    (editionNotice news id s).media = s.media := by
  unfold editionNotice
  split
  · exact raise_media ..
  · rfl

@[simp] theorem earlyFullCheck_media (s : State) : (earlyFullCheck s).media = s.media := by
  obtain ⟨f, k, hk⟩ := earlyFullCheck_frame s
  rw [hk]

@[simp] theorem rollNotice_media (news : RollNews) (s : State) : (rollNotice news s).media = s.media := raise_media ..

@[simp] theorem cutNotice_media (news : CutNews) (s : State) : (cutNotice news s).media = s.media := raise_media ..

/-! ## The work on a channel's ink -/

/-- What the work on a channel's ink changes: the ink, HALT with the silence timer, the store and the control link. -/
def InkWork (s t : State) : Prop :=
  ∃ i e m k, t = { s with ink := i, engine := e, store := m, control := k }

theorem InkWork.trans {r : State} (h : InkWork r s) (g : InkWork s t) : InkWork r t := by
  obtain ⟨_, _, _, _, rfl⟩ := h
  obtain ⟨_, _, _, _, rfl⟩ := g
  exact ⟨_, _, _, _, rfl⟩

theorem InkWork.refl (s : State) : InkWork s s := ⟨_, _, _, _, rfl⟩

theorem InkFrame.work (h : InkFrame s t) : InkWork s t := by
  obtain ⟨_, _, _, rfl⟩ := h
  exact ⟨_, _, _, _, rfl⟩

theorem InkWork.media (h : InkWork s t) : t.media = s.media := by
  obtain ⟨_, _, _, _, rfl⟩ := h
  rfl

theorem raise_work (b : NoticeBody) (s : State) : InkWork s (raise b s) := by
  obtain ⟨k, hk⟩ := raise_control b s
  exact ⟨_, _, _, k, hk⟩

theorem mapChannel_work (s : State) (c : Chan) (f : Channel → Channel) : InkWork s (s.mapChannel c f) := ⟨_, _, _, _, rfl⟩

theorem haltUpdate_work (s : State) : InkWork s (haltUpdate s) := by
  obtain ⟨e, k, hk⟩ := haltUpdate_frame s
  exact ⟨_, e, _, k, hk⟩

theorem updateIndication_work (c : Chan) (s : State) : InkWork s (updateIndication c s) := by
  unfold updateIndication
  dsimp only
  split
  · exact .refl s
  · exact (mapChannel_work s c _).trans ((inkNotice_frame c _).work.trans (haltUpdate_work _))

theorem setRemaining_work (c : Chan) (n : Nat) (s : State) : InkWork s (setRemaining c n s) := by
  unfold setRemaining
  split
  · exact .refl s
  · exact ⟨_, _, _, _, rfl⟩

theorem makeSpent_work (c : Chan) (s : State) : InkWork s (makeSpent c s) := by
  unfold makeSpent
  split
  · exact .refl s
  · exact (mapChannel_work s c _).trans (raise_work _ _)

theorem take_work (c : Chan) (s : State) : InkWork s (take c s) := by
  unfold take
  split
  · rename_i j k _ _
    have hs : InkWork s (saveInk (setRefillMarker c false (setRemaining c (k.remaining - j.pumped)
        (s.mapChannel c (takeIntoTank j))))) :=
      (mapChannel_work s c _).trans ((setRemaining_work c _ _).trans ⟨_, _, _, _, rfl⟩)
    dsimp only
    split
    · exact hs.trans (makeSpent_work c _)
    · exact hs
  · exact .refl s

theorem foldl_work {α : Type} {f : State → α → State} (hf : ∀ s a, InkWork s (f s a)) (l : List α) (s : State) :
    InkWork s (l.foldl f s) := by
  induction l generalizing s with
  | nil => exact .refl s
  | cons a l ih => exact (hf s a).trans (ih _)

/-- The refills end with what was pumped, and are reconsidered (R48). -/
theorem resetRefills_work (s : State) : InkWork s (resetRefills s) := by
  have taken : ∀ s c, InkWork s (resetTake s c) := fun s c => by
    unfold resetTake
    split
    · exact (take_work c s).trans (updateIndication_work c _)
    · exact .refl s
  have ended : ∀ s c, InkWork s (resetEnd s c) := fun s c => by
    unfold resetEnd
    split
    · exact mapChannel_work s c _
    · exact .refl s
  exact (foldl_work taken _ s).trans ((foldl_work ended _ _).trans
    (foldl_work (fun s c => (reconsider_frame c s).work) _ _))

/-! ## The roll's state -/

theorem foldl_rollState {α : Type} {f : State → α → State} (hf : ∀ s a, (f s a).media.rollState = s.media.rollState)
    (l : List α) (s : State) : (l.foldl f s).media.rollState = s.media.rollState := by
  induction l generalizing s with
  | nil => rfl
  | cons a l ih => exact (ih _).trans (hf s a)

theorem abandonIfPositioned_rollState (n : Nat) (s : State) :
    (abandonIfPositioned n s).media.rollState = s.media.rollState := by
  unfold abandonIfPositioned
  split <;> rfl

theorem giveBack_rollState (p : PrintRecord) (reason : HeldReason) (s : State) :
    (giveBack p reason s).media.rollState = s.media.rollState := by
  simp only [giveBack, State.unready_media, State.mapPrint_media, State.lowerInFlight, State.mapEditionOf_media,
    abandonIfPositioned_rollState]

theorem returnToWaiting_rollState (n : Nat) (reason : HeldReason) (s : State) :
    (returnToWaiting n reason s).media.rollState = s.media.rollState := by
  unfold returnToWaiting
  split
  · rfl
  · split
    · rw [releaseChecks_media, earlyFullCheck_media, printNotice_media, giveBack_rollState]
    · rfl

theorem repairLoop_rollState (n : Nat) (c : Chan) (s : State) :
    (repairLoop n c s).media.rollState = s.media.rollState := by
  induction n generalizing s with
  | zero => rfl
  | succ n ih =>
    unfold repairLoop
    split
    · rfl
    · split
      · rw [ih, returnToWaiting_rollState]
      · unfold clipActive
        split <;> rfl

theorem repair_rollState (c : Chan) (s : State) : (repair c s).media.rollState = s.media.rollState :=
  repairLoop_rollState _ c s

theorem handOn_rollState (c : Chan) (before s : State) : (handOn c before s).media.rollState = s.media.rollState := by
  have checked : ∀ u : State, u.media.rollState = s.media.rollState →
      (if u.usable c = before.usable c ∧ (u.channel c).slot = (before.channel c).slot then u
        else releaseChecks u).media.rollState = s.media.rollState := fun u hu => by
    split
    · exact hu
    · rw [releaseChecks_media, hu]
  refine checked _ ?_
  split
  · exact repair_rollState c s
  · rfl

theorem suspendRefill_rollState (c : Chan) (s : State) : (suspendRefill c s).media.rollState = s.media.rollState := by
  unfold suspendRefill
  dsimp only
  split
  · rw [handOn_rollState, (updateIndication_work c _).media, State.mapChannel_media, (take_work c s).media]
  · rfl

theorem inkPrintBegins_rollState (s : State) : (inkPrintBegins s).media.rollState = s.media.rollState := by
  have each : ∀ u c, (reconsider c (suspendRefill c u)).media.rollState = u.media.rollState := fun u c => by
    rw [(reconsider_frame c _).work.media, suspendRefill_rollState]
  rw [inkPrintBegins, foldl_rollState each]

/-! ### A print that becomes ACTIVE, and one that leaves it -/

theorem completePositioning_rollState (n : Nat) (s : State) :
    (completePositioning n s).media.rollState = s.media.rollState := by
  unfold completePositioning
  split
  · rfl
  · split
    · rw [printNotice_media, inkPrintBegins_rollState]
      rfl
    · rfl

theorem spoilActive_rollState (p : PrintRecord) (stop : Bool) (s : State) :
    (spoilActive p stop s).media.rollState = s.media.rollState := by
  obtain ⟨u, hu, hk⟩ := leaveActive_leaves p.handle (fun q => { q with state := .travel, outcome := some .spoiled })
    .travel (spoilBegun p stop s)
  obtain ⟨_, _, _, hb, -⟩ := spoilBegun_frame p stop s
  obtain ⟨_, _, _, _, _, hf⟩ := hk.frame
  rw [spoilActive_eq, hf]
  exact (congrArg (·.rollState) hu.media).trans (by rw [hb])

theorem faultOwners_rollState (s : State) : (faultOwners s).media.rollState = s.media.rollState := by
  have ha : (abandonPositioned s).media.rollState = s.media.rollState := by
    unfold abandonPositioned
    split
    · rw [releaseChecks_media]
      rfl
    · rfl
  unfold faultOwners
  dsimp only
  split
  · rw [spoilActive_rollState, ha]
  · exact ha

theorem faultTransport_rollState (cause : FaultCause) (s : State) :
    (faultTransport cause s).media.rollState = s.media.rollState := by
  unfold faultTransport
  dsimp only
  split
  · rw [haltUpdate_media]
    rfl
  · rw [haltUpdate_media, faultOwners_rollState, haltUpdate_media, rollNotice_media]
    rfl

/-! ### A verdict and a scan -/

theorem holdEffects_rollState (id : Nat) (s : State) : (holdEffects id s).media.rollState = s.media.rollState := by
  unfold holdEffects
  dsimp only
  rw [editionNotice_media]
  split
  · rw [releaseChecks_media]
  · exact foldl_rollState (fun s n => returnToWaiting_rollState n .edition s) _ s

theorem editionVerdict_rollState (p : PrintRecord) (o : PrintOutcome) (r : ScanResult) (s : State) :
    (editionVerdict p o r s).media.rollState = s.media.rollState := by
  have hr : (recordVerdict p o r s).media = s.media := by simp [recordVerdict]
  unfold editionVerdict
  split
  · unfold verdictEffects
    split
    · rw [hr]
    · split
      · rw [hr]
      · split
        · rw [haltUpdate_media, editionNotice_media, hr]
        · rw [haltUpdate_media, holdEffects_rollState, hr]
  · rw [hr]

theorem fixSet_media (p : PrintRecord) (o : PrintOutcome) (s : State) : (fixSet p o s).media = s.media := by
  unfold fixSet
  split
  · rfl
  · rfl
  · unfold setRefMode
    split
    · split <;> rfl
    · rfl

theorem latchFail_media (n : Nat) (v : Verdict) (s : State) : (latchFail n v s).media = s.media := by
  unfold latchFail
  split <;> rfl

theorem issueVerdict_rollState (n index : Nat) (r : ScanResult) (s : State) :
    (issueVerdict n index r s).media.rollState = s.media.rollState := by
  unfold issueVerdict
  split
  · rfl
  · split
    · dsimp only
      rw [releaseChecks_media, unlist, State.mapMedia_media, printNotice_media, haltUpdate_media, raise_media,
        State.mapColour_media, latchFail_media, fixSet_media, editionVerdict_rollState]
    · rfl

theorem handScan_rollState (n : Nat) (s : State) : (handScan n s).media.rollState = s.media.rollState := by
  have begun : ∀ p, (beginScan p s).media.rollState = s.media.rollState := fun p => by
    unfold beginScan
    dsimp only
    split
    · rw [issueVerdict_rollState, printNotice_media, State.mapPrint_media]
    · split
      · rw [sendScan, State.mapColour_media, State.command, State.mapColour_media, printNotice_media,
          State.mapPrint_media]
      · rw [State.mapColour_media, printNotice_media, State.mapPrint_media]
  unfold handScan
  dsimp only
  split
  · rfl
  · split
    · exact begun _
    · rfl

/-! ### The transport goes on -/

theorem beginCut_rollState (e : Station) (s : State) : (beginCut e s).media.rollState = s.media.rollState := by
  have separated : ∀ u, (separateSpoiled e u).media = u.media := fun u => by
    unfold separateSpoiled
    split
    · split
      · rw [printNotice_media, State.mapPrint_media]
      · rfl
    · rfl
  unfold beginCut
  dsimp only
  split
  · unfold chuteStage
    split
    · exact congrArg _ (separated _)
    · exact congrArg _ (separated _)
  · unfold failCut
    split
    · exact congrArg _ (separated _)
    · dsimp only
      rw [faultTransport_rollState, cutNotice_media, State.mapCutter_media, separated]
      rfl

theorem feedDone_frame (d : Nat) (s : State) : ∃ e, feedDone d s = { s with engine := e } := by
  unfold feedDone
  split <;> exact ⟨_, rfl⟩

theorem endFeed_rollState (f : Feed) (s : State) : (endFeed f s).media.rollState = s.media.rollState := by
  unfold endFeed
  dsimp only
  split
  · obtain ⟨e, he⟩ := feedDone_frame (s.media.roll.head - f.start) (rest s)
    rw [he]
    rfl
  · split
    · rw [completePositioning_rollState]
      rfl
    · rfl
  · rfl
  · rw [rollNotice_media]
    rfl

theorem advanceLoop_rollState (n : Nat) (s : State) : (advanceLoop n s).media.rollState = s.media.rollState := by
  induction n generalizing s with
  | zero => rfl
  | succ n ih =>
    unfold advanceLoop
    split
    · rfl
    · dsimp only
      split
      · rfl
      · split
        · split
          · rw [ih, handScan_rollState]
            rfl
          · rw [ih]
            rfl
          · rw [beginCut_rollState]
            rfl
        · split
          · rfl
          · split
            · exact endFeed_rollState ..
            · rfl

theorem beginFeed_rollState (owner : FeedOwner) (target : Nat) (s : State) :
    (beginFeed owner target s).media.rollState = s.media.rollState := advanceLoop_rollState ..

/-! ### What can begin -/

theorem startStep_rollState (h : startStep s = some t) : t.media.rollState = s.media.rollState := by
  have committed : ∀ p sp, (commitStart p sp s).media.rollState = s.media.rollState := fun p sp => by
    obtain ⟨u, _, _, he, hk⟩ := commitStart_eq p sp s
    obtain ⟨_, _, _, _, _, rfl⟩ := hk.frame
    rw [he, beginFeed_rollState]
    rfl
  unfold startStep at h
  split at h
  · split at h
    · cases h
    · dsimp only at h
      split at h
      · split at h
        · cases h
          exact committed ..
        · cases h
      · cases h
        exact returnToWaiting_rollState ..
  · cases h

theorem flushStep_rollState (h : flushStep s = some t) : t.media.rollState = s.media.rollState := by
  unfold flushStep at h
  split at h
  · cases h
    exact beginFeed_rollState ..
  · cases h

theorem settleLoop_rollState (n : Nat) (s : State) : (settleLoop n s).media.rollState = s.media.rollState := by
  induction n generalizing s with
  | zero => rw [settleLoop, haltUpdate_media]
  | succ n ih =>
    unfold settleLoop
    dsimp only
    split
    · rename_i h
      rw [ih, startStep_rollState h, haltUpdate_media]
    · split
      · rename_i h
        rw [ih, flushStep_rollState h, haltUpdate_media]
      · unfold endFlush
        split <;> rw [haltUpdate_media]

/-! ## The three passes (R206) -/

theorem removePrint_rollState (p : PrintRecord) (s : State) :
    (removePrint p s).media.rollState = s.media.rollState := by
  unfold removePrint
  dsimp only
  rw [releaseChecks_media]
  split
  · rw [earlyFullCheck_media, raise_media, State.dropPrint_media, State.lowerInFlight, State.mapEditionOf_media,
      abandonIfPositioned_rollState]
  · rw [raise_media, State.dropPrint_media]

theorem resetRemove_rollState (s : State) (n : Nat) : (resetRemove s n).media.rollState = s.media.rollState := by
  unfold resetRemove
  split
  · rfl
  · split
    · rw [settle, settleLoop_rollState, removePrint_rollState]
    · rw [settle, settleLoop_rollState, removePrint_rollState]
    · rfl

theorem resetSpoil_rollState (s : State) : (resetSpoil s).media.rollState = s.media.rollState := by
  unfold resetSpoil
  split
  · exact spoilActive_rollState ..
  · rfl

/-! ### The close of every print -/

theorem visitWaiting_handles (s : State) (n : Nat) :
    (visitWaiting s n).queue.prints.map (·.handle) = s.queue.prints.map (·.handle) := by
  have changed : ∀ (m : Nat) (f : PrintRecord → PrintRecord), (∀ q, (f q).handle = q.handle) →
      (s.mapPrint m f).queue.prints.map (·.handle) = s.queue.prints.map (·.handle) := fun m f hf => by
    rw [State.mapPrint_queue, List.map_map]
    refine List.map_congr_left fun q _ => ?_
    dsimp only [Function.comp_apply]
    split <;> simp [hf]
  unfold visitWaiting
  split
  · rfl
  · split
    · dsimp only
      split
      · rw [releasePrint_queue]
        exact changed _ _ fun _ => rfl
      · split
        · rfl
        · rw [(printNotice_aside _ _ _).queue]
          exact changed _ _ fun _ => rfl
    · rfl

theorem releaseChecks_handles (s : State) :
    (releaseChecks s).queue.prints.map (·.handle) = s.queue.prints.map (·.handle) := by
  have visited : ∀ (l : List Nat) (u : State),
      (l.foldl visitWaiting u).queue.prints.map (·.handle) = u.queue.prints.map (·.handle) := fun l => by
    induction l with
    | nil => exact fun _ => rfl
    | cons n l ih => exact fun u => (ih _).trans (visitWaiting_handles u n)
  exact visited _ s

/-- A close takes its print alone from the queue, and leaves the transport (R20). -/
theorem closePrint_leaves (n : Nat) (cutNone : Bool) (s : State) :
    (closePrint n cutNone s).queue.prints.map (·.handle) =
      (s.queue.prints.map (·.handle)).filter (fun h => h != n) ∧ (closePrint n cutNone s).media = s.media := by
  unfold closePrint
  split
  · rename_i hn
    refine ⟨(List.filter_eq_self.mpr fun h hh => ?_).symm, rfl⟩
    obtain ⟨q, hq, rfl⟩ := List.mem_map.mp hh
    simpa using List.find?_eq_none.mp hn q hq
  · rename_i p _
    have counted : ∀ b : Bool, (if b then s.countSpoil p else s).queue = s.queue ∧
        (if b then s.countSpoil p else s).media = s.media := fun b => by
      cases b
      · exact ⟨rfl, rfl⟩
      · exact ⟨State.mapEditionOf_queue .., State.mapEditionOf_media ..⟩
    obtain ⟨hq, hm⟩ := counted p.inFlight
    dsimp only
    rw [(raise_aside _ _).queue, releaseChecks_handles, raise_media, releaseChecks_media, State.dropPrint_queue,
      State.dropPrint_media, State.mapEditionOf_queue, State.mapEditionOf_media, appendRecord]
    dsimp only
    rw [hq, hm, List.filter_map]
    exact ⟨rfl, rfl⟩

/-- The third pass empties the queue, and leaves the transport (R206). -/
theorem resetClose_leaves (s : State) : (resetClose s).queue.prints = [] ∧ (resetClose s).media = s.media := by
  have closed : ∀ (l : List Nat) (u : State),
      (l.foldl (fun t h => closePrint h true t) u).queue.prints.map (·.handle) =
        (u.queue.prints.map (·.handle)).filter (fun h => !l.contains h) ∧
      (l.foldl (fun t h => closePrint h true t) u).media = u.media := fun l => by
    induction l with
    | nil => exact fun u => ⟨by simp, rfl⟩
    | cons n l ih =>
      intro u
      obtain ⟨hh, hm⟩ := ih (closePrint n true u)
      obtain ⟨hc, hk⟩ := closePrint_leaves n true u
      refine ⟨?_, hm.trans hk⟩
      rw [List.foldl_cons, hh, hc, List.filter_filter]
      refine List.filter_congr fun h _ => ?_
      by_cases hn : h = n <;> simp [hn]
  obtain ⟨hh, hm⟩ := closed (s.queue.prints.map (·.handle)) s
  refine ⟨List.map_eq_nil_iff.mp (hh.trans (List.filter_eq_nil_iff.mpr fun h hh => ?_)), hm⟩
  simpa using hh

/-- What pass 1 leaves is past READY (R206). -/
theorem resetKept_onRoll (w : WorkLaw s) {p : PrintRecord}
    (hp : p ∈ ((s.queue.prints.map (·.handle)).foldl resetRemove s).queue.prints) : p.onRoll = true := by
  have h := resetPass_stage w p.handle p hp rfl
  cases hs : p.state <;> simp [PrintRecord.stage, PrintRecord.onRoll, hs] at h ⊢

/-- The state in which the request completes: every print closed (R206). -/
def resetPassed (s : State) : State :=
  resetClose ((resetSpoil ((s.queue.prints.map (·.handle)).foldl resetRemove s)).mapColour discardScan)

theorem resetPassed_leaves (s : State) :
    (resetPassed s).queue.prints = [] ∧ (resetPassed s).media.rollState = s.media.rollState := by
  obtain ⟨hp, hm⟩ := resetClose_leaves
    ((resetSpoil ((s.queue.prints.map (·.handle)).foldl resetRemove s)).mapColour discardScan)
  refine ⟨hp, ?_⟩
  rw [resetPassed, hm, State.mapColour_media, resetSpoil_rollState, foldl_rollState resetRemove_rollState]

/-! ## The steps that complete the request (R207) -/

/-- What the steps of the RESET request leave: an empty queue and list, the roll's state, no flush, no pending scan and
no last sequence. -/
structure Emptied (x : RollState) (s : State) : Prop where
  prints : s.queue.prints = []
  stations : s.media.stations = []
  rollState : s.media.rollState = x
  flushDeadline : s.queue.flushDeadline = none
  flushDue : s.queue.flushDue = false
  pending : s.colour.pending = none
  lastSequence : s.meter.lastSequence = none

section emptied

variable {x : RollState}

/-- A change of none of these. -/
theorem Emptied.same (h : Emptied x s) (hq : t.queue = s.queue := by rfl)
    (hl : t.media.stations = s.media.stations := by rfl) (hr : t.media.rollState = s.media.rollState := by rfl)
    (hc : t.colour = s.colour := by rfl) (hm : t.meter = s.meter := by rfl) : Emptied x t :=
  ⟨hq ▸ h.prints, hl ▸ h.stations, hr ▸ h.rollState, hq ▸ h.flushDeadline, hq ▸ h.flushDue, hc ▸ h.pending,
   hm ▸ h.lastSequence⟩

theorem Emptied.findPrint (h : Emptied x s) (n : Nat) : s.findPrint n = none := by
  rw [State.findPrint, h.prints]
  rfl

theorem Emptied.haltUpdate (h : Emptied x s) : Emptied x (haltUpdate s) := by
  obtain ⟨e, k, hk⟩ := haltUpdate_frame s
  rw [hk]
  exact h.same

/-- With no entry listed and no print queued, a feed or a stop goes on to its end. -/
theorem Emptied.endFeed (h : Emptied x s) (f : Feed) : Emptied x (endFeed f s) := by
  have rested : Emptied x (rest s) := h.same
  unfold Machine.endFeed
  dsimp only
  split
  · obtain ⟨e, he⟩ := feedDone_frame (s.media.roll.head - f.start) (rest s)
    rw [he]
    exact rested.same
  · split
    · rw [completePositioning, rested.findPrint]
      exact rested
    · exact rested
  · exact rested
  · obtain ⟨k, hk⟩ := rollNotice_control (.moveDone (s.media.roll.head - f.start)) (rest s)
    rw [hk]
    exact rested.same

theorem Emptied.advanceLoop (h : Emptied x s) (n : Nat) : Emptied x (advanceLoop n s) := by
  cases n with
  | zero => exact h
  | succ n =>
    have noEntry : s.entryHere = none := by
      rw [State.entryHere, h.stations]
      rfl
    unfold Machine.advanceLoop
    split
    · exact h
    · dsimp only
      split
      · exact h.same
      · rw [noEntry]
        dsimp only
        split
        · exact h.same
        · split
          · exact h.endFeed _
          · exact h.same

theorem Emptied.endIdleStop (h : Emptied x s) : Emptied x (endIdleStop s) := by
  unfold Machine.endIdleStop
  split
  · exact h.advanceLoop _
  · exact h

/-- Nothing can begin, so that HALT alone is worked out (R11, R21). -/
theorem Emptied.settle_eq (h : Emptied x s) : settle s = Machine.haltUpdate s := by
  have ht := h.haltUpdate
  have start : startStep (Machine.haltUpdate s) = none := by
    have noReady : (Machine.haltUpdate s).readyPrints = [] := List.filterMap_eq_nil_iff.mpr fun n _ => ht.findPrint n
    rw [startStep, noReady]
    simp
  have flush : flushStep (Machine.haltUpdate s) = none := by simp [flushStep, State.flushPossible, ht.flushDue]
  rw [settle, settleLoop]
  simp only [start, flush]
  simp [endFlush, ht.flushDue]

theorem Emptied.finish (h : Emptied x s) : Emptied x (finish s) := by
  rw [Machine.finish, h.settle_eq]
  exact h.haltUpdate.same

end emptied

/-- The list is emptied, and nothing else of the queue, the roll, the scan and the meter changes (R207). -/
theorem resetList_frame (s : State) :
    ∃ f k, resetList s = { s with media := { s.media with stations := [], feed := f }, control := k } := by
  obtain ⟨k, hk⟩ := emptyList_frame .reset s
  rw [resetList, hk]
  exact ⟨_, k, rfl⟩

/-- A VERIFIED roll becomes UNVERIFIED, and any other stays as it is (R207). -/
theorem resetRoll_frame (s : State) : ∃ m k, resetRoll s = { s with
    media := { s.media with rollState := if s.media.rollState = .verified then .unverified else s.media.rollState }
    store := m, control := k } := by
  obtain ⟨r, hr⟩ := saveRoll_frame (s.mapMedia fun m =>
    { m with rollState := if m.rollState = .verified then .unverified else m.rollState })
  obtain ⟨k, hk⟩ := rollNotice_control (.state .unverified) (unverifyRoll s)
  have told : resetRoll s = rollNotice (.state .unverified) (unverifyRoll s) ∨ resetRoll s = unverifyRoll s := by
    unfold resetRoll
    dsimp only
    split
    · exact .inl rfl
    · exact .inr rfl
  rcases told with ht | ht
  · rw [ht, hk, unverifyRoll, hr]
    exact ⟨_, k, rfl⟩
  · rw [ht, unverifyRoll, hr]
    exact ⟨_, _, rfl⟩

theorem resetComplete_empties (hp : s.queue.prints = []) :
    Emptied (if s.media.rollState = .verified then .unverified else s.media.rollState) (resetComplete s) := by
  obtain ⟨f, k, hl⟩ := resetList_frame s
  obtain ⟨m, k', hr⟩ := resetRoll_frame (resetList s)
  obtain ⟨i, e, m', k'', hi⟩ := resetRefills_work (resetRoll (resetList s))
  have timers : Emptied (if s.media.rollState = .verified then .unverified else s.media.rollState)
      (resetTimers (resetRefills (resetRoll (resetList s)))) := by
    rw [hi, hr, hl]
    exact ⟨hp, rfl, rfl, rfl, rfl, rfl, rfl⟩
  have ended := timers.endIdleStop
  unfold resetComplete
  dsimp only
  generalize Machine.endIdleStop (resetTimers (resetRefills (resetRoll (resetList s)))) = u at ended ⊢
  exact ended.same

/-- What completes the request keeps all that is stored but the access level, which falls to OPERATOR (R207). -/
theorem resetComplete_leaves (s : State) :
    (resetComplete s).stored = { s.stored with level := .operator } ∧
    (∀ k : NoticeKind, ((resetComplete s).notice k).mask = (s.notice k).mask) ∧
    (∀ c : Chan, ((resetComplete s).channel c).colourCode = (s.channel c).colourCode) ∧
    (∀ i : Fin 32, SetKept s.colour.sets[i] (resetComplete s).colour.sets[i]) ∧
    s.cost.log <+: (resetComplete s).cost.log ∧ s.registry.closedIds <+: (resetComplete s).registry.closedIds := by
  have h := (resetSteps_loose s).toHeld
  unfold resetComplete
  dsimp only
  generalize endIdleStop (resetTimers (resetRefills (resetRoll (resetList s)))) = u at h ⊢
  exact ⟨congrArg (fun k : Stored => { k with level := .operator }) h.stored, h.masks, h.colours, h.sets, h.log,
    h.closed⟩

/-! ## The request -/

theorem exec_reset (tag : Nat) (s : State) : exec (.reset tag) s = .next (resetRequest tag s) :=
  next_request_operator ..

/-- The part once the request is complete, before its reply. -/
def resetDone (s : State) : State := finish (haltUpdate (resetComplete (resetPassed s)))

/-- The request changes the send list alone once it is complete, and ends it with its reply. -/
theorem resetRequest_eq (tag : Nat) (s : State) : ∃ l,
    resetRequest tag s = { resetDone s with control := { (resetDone s).control with sendList := l } } ∧
    l.getLast? = some (.reply tag .ok 0x07 (.reset
      (s.queue.prints.length - ((s.queue.prints.map (·.handle)).foldl resetRemove s).queue.prints.length)
      ((s.queue.prints.map (·.handle)).foldl resetRemove s).queue.prints.length
      (((resetDone s).cost.log.drop s.cost.log.length).map (·.sequence)))) := by
  have done : finish (haltUpdate (resetComplete (resetClose ((resetSpoil ((s.queue.prints.map
      (·.handle)).foldl resetRemove s)).mapColour discardScan)))) = resetDone s := by rw [resetDone, resetPassed]
  unfold resetRequest
  dsimp only
  rw [done]
  generalize ReplyFields.reset _ _ _ = fields
  obtain ⟨l, hl⟩ := reply_sendList tag .ok 0x07 fields (resetDone s)
  have last := reply_last tag .ok 0x07 fields (resetDone s)
  rw [hl] at last
  exact ⟨l, hl, last⟩

theorem resetDone_empties (s : State) :
    Emptied (if s.media.rollState = .verified then .unverified else s.media.rollState) (resetDone s) := by
  obtain ⟨hp, hr⟩ := resetPassed_leaves s
  have h := resetComplete_empties hp
  rw [hr] at h
  exact h.haltUpdate.finish

/-- The passes and what ends the request keep what every operation keeps. -/
theorem resetDone_kept (s : State) : Kept s (resetPassed s) ∧ Kept (resetComplete (resetPassed s)) (resetDone s) :=
  ⟨resetPasses_kept (.refl s), finish_kept (haltUpdate_kept (.refl _))⟩

/-- Settles O33: the passes leave no print and the roll's state, nothing begins once the list is empty too, and all else
is what every operation keeps. -/
theorem resetEmptiesQueue : Obligations.ResetEmptiesQueue := by
  unfold Obligations.ResetEmptiesQueue
  intro tag s
  have empty := resetDone_empties s
  obtain ⟨passed, done⟩ := resetDone_kept s
  obtain ⟨hstored, hmasks, hcolours, hsets, hlog, hclosed⟩ := resetComplete_leaves (resetPassed s)
  have stored : (resetDone s).stored = { s.stored with level := .operator } := by
    rw [done.stored, hstored, passed.stored]
  obtain ⟨l, hl, last⟩ := resetRequest_eq tag s
  refine ⟨_, ((resetDone s).cost.log.drop s.cost.log.length).map (·.sequence), (exec_reset tag s).trans (congrArg _ hl),
    last, fun w p hp => resetKept_onRoll w hp, ?_⟩
  generalize resetDone s = d at *
  exact ⟨rfl, congrArg Stored.level stored, empty.prints, empty.stations, empty.rollState, empty.flushDeadline,
    empty.flushDue, empty.pending, empty.lastSequence, stored,
    fun k => ((done.masks k).trans (hmasks k)).trans (passed.masks k),
    fun c => ((done.colours c).trans (hcolours c)).trans (passed.colours c),
    fun i => ((passed.sets i).trans (hsets i)).trans (done.sets i), (passed.log.trans hlog).trans done.log,
    (passed.closed.trans hclosed).trans done.closed⟩

end Sys2Proof.Machine
end

section
/-! PROOFS. The cost unit: the price of a close, the requests that write its tables and drop its records, and what every
command leaves of its log. -/

namespace Sys2Proof.Machine

open Sys2Proof

variable {s : State} {l : List CostRecord}

/-! ## The price of a close (R152, R153) -/

theorem inkCost_zero : inkCost 0 = 0 := rfl

theorem inkCosts_get (numerators : PerChan Nat) (c : Chan) : (inkCosts numerators)[c] = inkCost numerators[c] := by
  simp [inkCosts]

/-- The sum over the list of the twelve is the sum over the channels. -/
theorem perChan_sum (v : PerChan Nat) : v.toList.sum = ∑ c : Chan, v[c] := by
  rw [← List.sum_ofFn]
  refine congrArg List.sum (List.ext_getElem (by simp) fun i _ _ => ?_)
  rw [List.getElem_ofFn]
  exact Vector.getElem_toList _

/-- A print that holds its snapshot is priced by it. -/
theorem snapshotAtClose_some {p : PrintRecord} {m : MediaSnapshot} (h : p.snapshot = some m) :
    p.snapshotAtClose = m := by
  rw [PrintRecord.snapshotAtClose, h, Option.getD_some]

/-- The greatest width, span and price give the greatest media cost (R153). -/
theorem mediaCost_le {m : MediaSnapshot} (hw : m.width ≤ 1626) (hl : m.spanLength ≤ 300000)
    (hp : m.price ≤ 1000000000) : mediaCost m ≤ 48780000000 := by
  have product : m.width * m.spanLength * m.price ≤ 1626 * 300000 * 1000000000 :=
    Nat.mul_le_mul (Nat.mul_le_mul hw hl) hp
  unfold mediaCost
  omega

/-- Settles O57: each cost by its equation, and the total over the channels. -/
theorem costRule : Obligations.CostRule := by
  unfold Obligations.CostRule
  intro p m o sequence cutNone hm
  have hs := snapshotAtClose_some hm
  have hk : (costRecordOf p o sequence cutNone).mediaCost = mediaCost m := congrArg mediaCost hs
  have hi (c : Chan) : (costRecordOf p o sequence cutNone).inkCosts[c] = inkCost p.numerators[c] := inkCosts_get _ c
  refine ⟨fun c => ⟨hi c, fun h0 => ?_⟩, hk, fun hw hl hp => hk.trans_le (mediaCost_le hw hl hp), ?_⟩
  · rw [hi, h0, inkCost_zero]
  · rw [← perChan_sum, hk]
    exact congrArg (totalCost p.numerators) hs

/-! ## The requests that write a table (R148, R150) -/

theorem exec_tariffSet (h : s.control.level ≠ .operator) (tag lot price : Nat) :
    exec (.tariffSet tag lot price) s = .next (tariffRequest tag lot price s) := congrArg _ (request_studio h ..)

theorem exec_mediaSet (h : s.control.level ≠ .operator) (tag mediaType : Nat) (name : List Byte) (price : Nat)
    (adjustment : Int) : exec (.mediaSet tag mediaType name price adjustment) s =
      .next (mediaSetRequest tag mediaType name price adjustment s) := congrArg _ (request_studio h ..)

theorem tariffRequest_written {price : Nat} (h : price ≤ 100000000) (tag : Nat) (lot : Fin 32) (s : State) :
    tariffRequest tag lot.val price s = reply tag .ok 0x38 (.tariff lot.val price s.cost.tariff[lot])
      { s with cost := { s.cost with tariff := s.cost.tariff.set lot price } } := by
  simp only [tariffRequest, boundedOf_val, Nat.not_lt.mpr h, if_false]

theorem tariffRequest_refused {lot price : Nat} (h : 32 ≤ lot ∨ 100000000 < price) (tag : Nat) (s : State) :
    tariffRequest tag lot price s = reply tag .range 0x38 .none s := by
  unfold tariffRequest
  split
  · rfl
  next i hi =>
    have hp : 100000000 < price := h.resolve_left fun hl => by rw [boundedOf_none hl] at hi; cases hi
    exact if_pos hp

theorem textInRange_iff {n : Nat} {text : List Byte} :
    textInRange n text = true ↔ text.length ≤ n ∧ ∀ b ∈ text, 0x20 ≤ b.toNat ∧ b.toNat ≤ 0x7E := by
  simp only [textInRange, Bool.and_eq_true, List.all_eq_true, decide_eq_true_eq]

theorem mediaInRange_iff {name : List Byte} {price : Nat} {adjustment : Int} :
    mediaInRange name price adjustment = true ↔
      (name.length ≤ 16 ∧ ∀ b ∈ name, 0x20 ≤ b.toNat ∧ b.toNat ≤ 0x7E) ∧ price ≤ 1000000000 ∧
        -200 ≤ adjustment ∧ adjustment ≤ 200 := by
  simp only [mediaInRange, Bool.and_eq_true, textInRange_iff, decide_eq_true_eq, and_assoc]

theorem mediaSetRequest_written {name : List Byte} {price : Nat} {adjustment : Int}
    (h : mediaInRange name price adjustment = true) (tag : Nat) (m : Fin 16) (s : State) :
    mediaSetRequest tag m.val name price adjustment s =
      reply tag .ok 0x39 (.mediaEntry m.val ⟨name, price, adjustment⟩)
        { s with cost := { s.cost with media := s.cost.media.set m ⟨name, price, adjustment⟩ } } := by
  simp only [mediaSetRequest, boundedOf_val, h, if_true]

theorem mediaSetRequest_refused {mediaType : Nat} {name : List Byte} {price : Nat} {adjustment : Int}
    (h : 16 ≤ mediaType ∨ ¬mediaInRange name price adjustment = true) (tag : Nat) (s : State) :
    mediaSetRequest tag mediaType name price adjustment s = reply tag .range 0x39 .none s := by
  unfold mediaSetRequest
  split
  · rfl
  next i hi => exact if_neg (h.resolve_left fun hm => by rw [boundedOf_none hm] at hi; cases hi)

/-! ## COST_DROP (R161) -/

theorem exec_costDrop (tag n : Nat) (s : State) : exec (.costDrop tag n) s = .next (costDropRequest tag n s) :=
  next_request_operator ..

theorem costDropRequest_oldest {r : CostRecord} {rest : List CostRecord} (h : s.cost.log = r :: rest) (tag : Nat) :
    costDropRequest tag r.sequence s =
      reply tag .ok 0x3B (.costDropped r.sequence (dropRecord s).cost.log.length (dropRecord s).freeSpace)
        (finish (dropRecord s)) := by
  simp only [costDropRequest, h, List.head?_cons, if_true]

theorem costDropRequest_mismatch {r : CostRecord} {rest : List CostRecord} {n : Nat} (h : s.cost.log = r :: rest)
    (hn : n ≠ r.sequence) (tag : Nat) :
    costDropRequest tag n s = reply tag .mismatch 0x3B (.oldestSequence r.sequence) s := by
  simp only [costDropRequest, h, List.head?_cons, hn, if_false]

theorem costDropRequest_empty (h : s.cost.log = []) (tag n : Nat) :
    costDropRequest tag n s = reply tag .empty 0x3B .noRecord s := by
  simp only [costDropRequest, h, List.head?_nil]

/-- Settles O24: each request by its range, and a drop by the log's head. -/
theorem costRequests : Obligations.CostRequests := by
  unfold Obligations.CostRequests
  refine ⟨fun tag s hl => ?_, fun tag s => ?_⟩
  · simp only [exec_tariffSet hl, exec_mediaSet hl]
    refine ⟨fun lot price hp => congrArg _ (tariffRequest_written hp tag lot s),
      fun lot price h => congrArg _ (tariffRequest_refused h tag s), fun m name price adjustment hn hb hp hlo hhi => ?_,
      fun mediaType name price adjustment h =>
        congrArg _ (mediaSetRequest_refused (h.imp_right fun out inside => ?_) tag s)⟩
    · exact congrArg _ (mediaSetRequest_written (mediaInRange_iff.mpr ⟨⟨hn, hb⟩, hp, hlo, hhi⟩) tag m s)
    · obtain ⟨⟨hn, hb⟩, hp, hlo, hhi⟩ := mediaInRange_iff.mp inside
      obtain long | ⟨b, hm, hx⟩ | wide := out
      · exact Nat.not_lt.mpr hn long
      · have := hb b hm
        omega
      · omega
  · simp only [exec_costDrop]
    refine ⟨fun r rest h => ?_, fun r rest n h hn => congrArg _ (costDropRequest_mismatch h hn tag),
      fun h n => congrArg _ (costDropRequest_empty h tag n)⟩
    have dropped : dropRecord s = releaseChecks (earlyFullCheck { s with cost := { s.cost with log := rest } }) := by
      rw [dropRecord, h, List.drop_one, List.tail_cons]
    rw [costDropRequest_oldest h, dropped]

/-! ## What a request leaves of the log (R158) -/

/-- A reply after a change that leaves the records there are. -/
theorem reply_log (tag : Nat) (code : ReplyCode) (kind : Nat) (fields : ReplyFields)
    (h : l <+: s.cost.log := by exact List.prefix_refl _) :
    l <+: (reply tag code kind fields s).cost.log := h.trans (reply_kept (.refl s) ..).log

theorem finish_log (h : l <+: s.cost.log) : l <+: (finish s).cost.log :=
  h.trans (finish_kept (.refl s)).log

theorem refreshPanel_log (h : l <+: s.cost.log := by exact List.prefix_refl _) :
    l <+: (refreshPanel s).cost.log := h.trans (refreshPanel_kept (.refl s)).log

theorem request_log (tag kind : Nat) (level : AccessLevel) {body : State → State}
    (h : s.cost.log <+: (body s).cost.log) : s.cost.log <+: (request tag kind level body s).cost.log := by
  unfold request
  split
  · exact h
  · exact reply_log ..

theorem accessRequest_log (tag level password : Nat) (s : State) :
    s.cost.log <+: (accessRequest tag level password s).cost.log := by
  unfold accessRequest
  dsimp only
  split
  case h_1 | h_2 => exact reply_log ..
  all_goals split <;> exact reply_log ..

theorem passwordRequest_log (tag level password : Nat) (s : State) :
    s.cost.log <+: (passwordRequest tag level password s).cost.log := by
  unfold passwordRequest
  split
  case h_3 => exact reply_log ..
  all_goals split <;> exact reply_log ..

theorem settingRequest_log {α : Type} (tag : Nat) (value : Option α) (write : α → State → State)
    (now : α → SettingNow) (h : ∀ v, s.cost.log <+: (write v s).cost.log) :
    s.cost.log <+: (settingRequest tag value write now s).cost.log := by
  refine request_log _ _ _ ?_
  split
  · exact reply_log ..
  · exact reply_log _ _ _ _ (h _)

theorem writeMask_log (kind : NoticeKind) (mask : Bool) (s : State) :
    s.cost.log <+: (writeMask kind mask s).cost.log := by
  unfold writeMask
  dsimp only
  split
  · exact List.prefix_refl _
  · exact (flushKind_kept (.refl (s.mapNotice kind _)) _ _).log

theorem dayTimer_log (s : State) : s.cost.log <+: (dayTimer s).cost.log := by
  unfold dayTimer
  split <;> exact List.prefix_refl _

theorem recolour_log (c : Chan) (code : Nat) (s : State) : s.cost.log <+: (recolour c code s).cost.log := by
  unfold recolour
  dsimp only
  split
  · exact List.prefix_refl _
  · split
    · exact List.prefix_refl _
    · exact (applyJudgement_kept (.refl (s.mapChannel c _)) _ _ _ _).log

theorem colourRequest_log (tag channel code : Nat) (s : State) :
    s.cost.log <+: (colourRequest tag channel code s).cost.log := by
  unfold colourRequest
  split
  · exact reply_log ..
  · dsimp only
    split
    · exact reply_log ..
    · split
      · exact reply_log ..
      · exact reply_log _ _ _ _ (finish_log (recolour_log ..))

theorem trimRequest_log (tag channel trim : Nat) (s : State) :
    s.cost.log <+: (trimRequest tag channel trim s).cost.log := by
  unfold trimRequest
  split
  · exact reply_log ..
  · split <;> exact reply_log ..

theorem dropRowRequest_log (tag row small medium large : Nat) (s : State) :
    s.cost.log <+: (dropRowRequest tag row small medium large s).cost.log := by
  unfold dropRowRequest
  split
  · exact reply_log ..
  · split <;> exact reply_log ..

theorem manualRequest_log (tag mode row : Nat) (s : State) :
    s.cost.log <+: (manualRequest tag mode row s).cost.log := by
  unfold manualRequest
  split
  · split <;> exact reply_log ..
  · exact reply_log ..

theorem tariffRequest_log (tag lot price : Nat) (s : State) :
    s.cost.log <+: (tariffRequest tag lot price s).cost.log := by
  unfold tariffRequest
  split
  · exact reply_log ..
  · split <;> exact reply_log ..

theorem mediaSetRequest_log (tag mediaType : Nat) (name : List Byte) (price : Nat) (adjustment : Int) (s : State) :
    s.cost.log <+: (mediaSetRequest tag mediaType name price adjustment s).cost.log := by
  unfold mediaSetRequest
  split
  · exact reply_log ..
  · split <;> exact reply_log ..

theorem referenceLoadRequest_log (tag index count : Nat) (patches : List Patch) (warn fail : Nat) (s : State) :
    s.cost.log <+: (referenceLoadRequest tag index count patches warn fail s).cost.log := by
  unfold referenceLoadRequest
  split
  · exact reply_log ..
  · split
    · exact reply_log ..
    · split <;> exact reply_log ..

/-! ## The resets and power-on -/

/-- The prints that RESET spoils add their records (R206). -/
theorem resetRequest_log (tag : Nat) (s : State) : s.cost.log <+: (resetRequest tag s).cost.log := by
  obtain ⟨passed, done⟩ := resetDone_kept s
  obtain ⟨-, -, -, -, completed, -⟩ := resetComplete_leaves (resetPassed s)
  obtain ⟨l, hl, -⟩ := resetRequest_eq tag s
  have kept : s.cost.log <+: (resetDone s).cost.log := (passed.log.trans completed).trans done.log
  rw [hl]
  generalize resetDone s = d at kept ⊢
  exact kept

theorem factoryRequest_log (tag : Nat) (s : State) : s.cost.log <+: (factoryRequest tag s).cost.log := by
  unfold factoryRequest
  split
  · exact reply_log ..
  · have written : s.cost.log <+: (releaseSets (factoryTables s)).cost.log :=
      (releaseSets_kept (.refl (factoryTables s))).log
    exact reply_log _ _ _ _ (written.trans (factoryFollowed_kept _).log)

/-- The reconciliation of the open-print marker adds its record (R204). -/
theorem powerOn_log (levels : SensorLevels) (s : State) : s.cost.log <+: (powerOn levels s).cost.log := by
  have reconciled : s.cost.log <+: (reconcileMarker (powerVolatile levels s)).cost.log :=
    (reconcileMarker_held (.refl (powerVolatile levels s))).log
  exact reconciled.trans (powerOn_loose levels s).log

/-! ## Every command -/

/-- The records after the oldest stay, and what follows a drop may add some after them. -/
theorem dropRecord_log (s : State) : s.cost.log.drop 1 <+: (dropRecord s).cost.log :=
  (releaseChecks_kept (earlyFullCheck_kept (.refl { s with cost := { s.cost with log := s.cost.log.drop 1 } }))).log

/-- A drop takes the oldest record, which it names; refused, it leaves the log (R161). -/
theorem costDropRequest_log (tag n : Nat) (s : State) :
    s.cost.log <+: (costDropRequest tag n s).cost.log ∨
    ∃ r rest, n = r.sequence ∧ s.cost.log = r :: rest ∧ rest <+: (costDropRequest tag n s).cost.log := by
  cases h : s.cost.log with
  | nil => exact .inl (List.nil_prefix)
  | cons r rest =>
    by_cases hn : n = r.sequence
    · subst hn
      have dropped : rest <+: (dropRecord s).cost.log := by simpa [h] using dropRecord_log s
      rw [costDropRequest_oldest h]
      exact .inr ⟨r, rest, rfl, rfl, reply_log _ _ _ _ (finish_log dropped)⟩
    · rw [costDropRequest_mismatch h hn, ← h]
      exact .inl (reply_log ..)

/-- Every command but COST_DROP leaves the records there are, and may add some after them. -/
theorem exec_log (c : Instr) (s : State) (hc : ∀ tag n, c ≠ .costDrop tag n) :
    ∃ t, exec c s = .next t ∧ s.cost.log <+: t.cost.log := by
  cases c with
  | costDrop tag n => exact absurd rfl (hc tag n)
  | powerOn => exact ⟨_, rfl, powerOn_log ..⟩
  | reset => exact ⟨_, rfl, request_log _ _ _ (resetRequest_log ..)⟩
  | factoryRestore => exact ⟨_, rfl, request_log _ _ _ (factoryRequest_log ..)⟩
  | access => exact ⟨_, rfl, request_log _ _ _ (accessRequest_log ..)⟩
  | passwordSet => exact ⟨_, rfl, passwordRequest_log ..⟩
  | date => exact ⟨_, rfl, request_log _ _ _ (reply_log ..)⟩
  | dayTimerExpiry => exact ⟨_, rfl, refreshPanel_log (dayTimer_log s)⟩
  | setInkMargin =>
    exact ⟨_, rfl, settingRequest_log _ _ _ _ fun _ => (finish_kept (releaseChecks_kept (.refl (s.mapControl _)))).log⟩
  | setUncheckedPolicy => exact ⟨_, rfl, settingRequest_log _ _ _ _ fun _ => List.prefix_refl _⟩
  | setNoticeMask => exact ⟨_, rfl, settingRequest_log _ _ _ _ fun _ => refreshPanel_log (writeMask_log ..)⟩
  | setLamp | setAttnRouting => exact ⟨_, rfl, settingRequest_log _ _ _ _ fun _ => refreshPanel_log⟩
  | setHaltRouting =>
    exact ⟨_, rfl, settingRequest_log _ _ _ _ fun _ => (finish_kept (haltUpdate_kept (.refl (s.mapEngine _)))).log⟩
  | trimSet => exact ⟨_, rfl, request_log _ _ _ (trimRequest_log ..)⟩
  | dropRowSet => exact ⟨_, rfl, request_log _ _ _ (dropRowRequest_log ..)⟩
  | manualModeSet => exact ⟨_, rfl, request_log _ _ _ (manualRequest_log ..)⟩
  | channelColour => exact ⟨_, rfl, request_log _ _ _ (colourRequest_log ..)⟩
  | tariffSet => exact ⟨_, rfl, request_log _ _ _ (tariffRequest_log ..)⟩
  | mediaSet => exact ⟨_, rfl, request_log _ _ _ (mediaSetRequest_log ..)⟩
  | referenceLoad => exact ⟨_, rfl, request_log _ _ _ (referenceLoadRequest_log ..)⟩
  | ident =>
    refine ⟨_, rfl, request_log _ _ _ (reply_log _ _ _ _ ?_)⟩
    split <;> exact List.prefix_refl _
  | settingsQuery | rollQuery | cutQuery | colourQuery | priceQueryTariff | priceQueryMedia | priceQueryLog
  | engineQuery => exact ⟨_, rfl, request_log _ _ _ (reply_log ..)⟩
  | unknownKind => exact ⟨_, rfl, reply_log ..⟩
  | clearFaultChannel => exact ⟨_, rfl, request_log _ _ _ (clearChannelRequest_kept (.refl s) ..).log⟩
  | clearFaultTransport => exact ⟨_, rfl, request_log _ _ _ (clearTransportRequest_kept (.refl s) _).log⟩
  | clearFaultVerdictLatch => exact ⟨_, rfl, request_log _ _ _ (clearLatchRequest_kept (.refl s) _).log⟩
  | printSubmit => exact ⟨_, rfl, request_log _ _ _ (submitRequest_sound (.refl s) ..).log⟩
  | printRelease => exact ⟨_, rfl, request_log _ _ _ (releaseRequest_kept (.refl s) ..).log⟩
  | printCancel => exact ⟨_, rfl, request_log _ _ _ (cancelRequest_kept (.refl s) ..).log⟩
  | printQuery => exact ⟨_, rfl, request_log _ _ _ (printQueryReply_kept (.refl s) ..).log⟩
  | inkQuery => exact ⟨_, rfl, request_log _ _ _ (inkQueryReply_kept (.refl s) ..).log⟩
  | meterQuery => exact ⟨_, rfl, request_log _ _ _ (meterQueryReply_kept (.refl s) ..).log⟩
  | rollLoad => exact ⟨_, rfl, request_log _ _ _ (rollLoadRequest_kept (.refl s) ..).log⟩
  | rollConfirm => exact ⟨_, rfl, request_log _ _ _ (rollConfirmRequest_kept (.refl s) _).log⟩
  | move => exact ⟨_, rfl, request_log _ _ _ (moveRequest_kept (.refl s) ..).log⟩
  | cutAt => exact ⟨_, rfl, request_log _ _ _ (cutAtRequest_kept (.refl s) ..).log⟩
  | cutNow => exact ⟨_, rfl, request_log _ _ _ (cutNowRequest_kept (.refl s) ..).log⟩
  | referenceSeal => exact ⟨_, rfl, request_log _ _ _ (referenceSealRequest_kept (.refl s) ..).log⟩
  | referenceQuery => exact ⟨_, rfl, request_log _ _ _ (referenceQueryRequest_kept (.refl s) ..).log⟩
  | calibrate => exact ⟨_, rfl, request_log _ _ _ (calibrateRequest_kept (.refl s) _).log⟩
  | editionOpen => exact ⟨_, rfl, request_log _ _ _ (editionOpenRequest_kept (.refl s) ..).log⟩
  | editionHold => exact ⟨_, rfl, request_log _ _ _ (editionHoldRequest_kept (.refl s) ..).log⟩
  | editionResume => exact ⟨_, rfl, request_log _ _ _ (editionResumeRequest_kept (.refl s) ..).log⟩
  | editionClose => exact ⟨_, rfl, request_log _ _ _ (editionCloseRequest_kept (.refl s) ..).log⟩
  | editionArchive => exact ⟨_, rfl, request_log _ _ _ (editionArchiveRequest_kept (.refl s) ..).log⟩
  | editionQuery => exact ⟨_, rfl, request_log _ _ _ (editionQueryReply_kept (.refl s) ..).log⟩
  | closedQuery => exact ⟨_, rfl, request_log _ _ _ (closedQueryReply_kept (.refl s) ..).log⟩
  | costRead => exact ⟨_, rfl, request_log _ _ _ (costReadRequest_kept (.refl s) _).log⟩
  | frameCheckFault | frameLengthFault => exact ⟨_, rfl, (refreshPanel_kept (discardFrame_kept (.refl s) _ _)).log⟩
  | gapTimeout => exact ⟨_, rfl, (refreshPanel_kept (gapExpires_kept (.refl s) _)).log⟩
  | overrun => exact ⟨_, rfl, (refreshPanel_kept (receiveFrame_kept (.refl s) _)).log⟩
  | sendListDrain => exact ⟨_, rfl, (refreshPanel_kept (drainSendList_kept (.refl s) _)).log⟩
  | linkByteReceived => exact ⟨_, rfl, (refreshPanel_kept (receiveByte_kept (.refl s) _ _)).log⟩
  | engineReady => exact ⟨_, rfl, (readyFrame_kept (.refl s) _).log⟩
  | swath => exact ⟨_, rfl, (swathFrame_kept (.refl s) ..).log⟩
  | feedAsk => exact ⟨_, rfl, (feedAskFrame_kept (.refl s) ..).log⟩
  | printDone => exact ⟨_, rfl, (printDone_kept (hearAndRefresh_kept (.refl s) _) ..).log⟩
  | printFail => exact ⟨_, rfl, (printFailFrame_kept (.refl s) ..).log⟩
  | engineUnknownKind => exact ⟨_, rfl, (refuseFrame_kept (hearAndRefresh_kept (.refl s) _) ..).log⟩
  | silenceTimeout =>
    refine ⟨_, rfl, ?_⟩
    split
    · exact List.prefix_refl _
    · exact (silenceExpires_kept (.refl s) _).log
  | calibrated => exact ⟨_, rfl, (calibrated_kept (.refl s) _).log⟩
  | calibrationFault => exact ⟨_, rfl, (calibrationFault_kept (.refl s) ..).log⟩
  | calibrationTimeout => exact ⟨_, rfl, (calibrationExpires_kept (.refl s)).log⟩
  | calibrationRetryExpiry => exact ⟨_, rfl, (retryExpires_kept (.refl s)).log⟩
  | readings => exact ⟨_, rfl, (readingsFrame_kept (.refl s) ..).log⟩
  | scanFault => exact ⟨_, rfl, (scanFaultFrame_kept (.refl s) ..).log⟩
  | scanTimeout => exact ⟨_, rfl, (scanExpires_kept (.refl s)).log⟩
  | spectroFrameIgnored => exact ⟨_, rfl, List.prefix_refl _⟩
  | flushWaitExpiry => exact ⟨_, rfl, (flushExpires_kept (.refl s)).log⟩
  | cartridgeInserted => exact ⟨_, rfl, (insertCartridge_kept (.refl s) _).log⟩
  | cartridgeRemoved => exact ⟨_, rfl, (removeCartridge_kept (.refl s) _).log⟩
  | tagReadDone => exact ⟨_, rfl, (tagRead_kept (.refl s) _).log⟩
  | tagWriteDone => exact ⟨_, rfl, (tagWrite_kept (.refl s) _).log⟩
  | tagTransferTimeout => exact ⟨_, rfl, (tagTimeout_kept (.refl s)).log⟩
  | flowPulse => exact ⟨_, rfl, (pulse_kept (.refl s) _).log⟩
  | refillTimeout => exact ⟨_, rfl, (refillExpires_kept (.refl s) _).log⟩
  | drySense => exact ⟨_, rfl, (drySensed_kept (.refl s) _).log⟩
  | driverArrival => exact ⟨_, rfl, (arrival_kept (.refl s)).log⟩
  | movementTimeout => exact ⟨_, rfl, (movementExpires_kept (.refl s)).log⟩
  | driverFault => exact ⟨_, rfl, (driverFaults_kept (.refl s)).log⟩
  | rollPresentChange => exact ⟨_, rfl, (rollPresentTakes_kept (.refl s) _).log⟩
  | rollEnd => exact ⟨_, rfl, (rollEndTrips_kept (.refl s)).log⟩
  | rollEndSensorShowsMedia =>
    exact ⟨_, rfl, (refreshPanel_kept (rollNotice_kept (setRollEnd_kept (.refl s) _) _)).log⟩
  | flapSettled => exact ⟨_, rfl, (flapSettles_kept (.refl s)).log⟩
  | settleLimitExpiry => exact ⟨_, rfl, (settleExpires_kept (.refl s)).log⟩
  | bladeHome => exact ⟨_, rfl, (bladeReturns_kept (.refl s)).log⟩
  | bladeLimitExpiry => exact ⟨_, rfl, (bladeExpires_kept (.refl s)).log⟩
  | bladeLeavesRest => exact ⟨_, rfl, (bladeLeaves_kept (.refl s)).log⟩
  | blinkPeriod => exact ⟨_, rfl, (refreshPanel_kept (timeTo_kept (.refl s) _)).log⟩

/-- Settles O13: COST_DROP by the log's head, and every other command by what its operations keep. -/
theorem costRecordsStay : Obligations.CostRecordsStay := by
  unfold Obligations.CostRecordsStay
  intro c s t h
  by_cases hc : ∃ tag n, c = .costDrop tag n
  · obtain ⟨tag, n, rfl⟩ := hc
    rw [exec_costDrop] at h
    cases h
    refine (costDropRequest_log tag n s).imp_right ?_
    rintro ⟨r, rest, rfl, hl, kept⟩
    exact ⟨tag, r, rest, rfl, hl, kept⟩
  · obtain ⟨u, hu, kept⟩ := exec_log c s fun tag n e => hc ⟨tag, n, e⟩
    rw [hu] at h
    cases h
    exact .inl kept

end Sys2Proof.Machine
end

section
/-! PROOFS. The engine link: HALT and the silence timer, the frames that name no ACTIVE print, and the answer that every
command has (R164 to R174). -/

namespace Sys2Proof.Machine

open Sys2Proof

variable {s t : State}

/-! ## Every step is answered -/

theorem core_run_succ (h : step s = .next t) (n : Nat) : Sys2Proof.core.run (n + 1) s = Sys2Proof.core.run n t := by
  have hs : Sys2Proof.core.step s = .next t := h
  simp only [Host.Core.run, hs]

/-- Settles O2: by induction on the number of steps, since every step leaves a next state. -/
theorem blockNeverStops : Obligations.BlockNeverStops := by
  unfold Obligations.BlockNeverStops
  intro s n
  induction n generalizing s with
  | zero => exact ⟨s, rfl⟩
  | succ n ih =>
    obtain ⟨-, t, ht, -⟩ := step_lawful s
    rw [core_run_succ ht]
    exact ih t

/-! ## HALT and the silence timer (R172 to R174) -/

/-- A condition holds HALT by itself, or through the routing; ROLL_LOW never does (R173). -/
theorem haltCauses_any (s : State) : s.haltCauses.any = true ↔
    s.conditions.inkOut = true ∨ s.conditions.rollEnded = true ∨
    (s.conditions.cutFault = true ∧ s.engine.haltRouting.cutFault = true) ∨
    (s.conditions.transportFault = true ∧ s.engine.haltRouting.transportFault = true) ∨
    (s.conditions.editionHold = true ∧ s.engine.haltRouting.editionHold = true) ∨
    (s.conditions.verdictFailLatch = true ∧ s.engine.haltRouting.verdictFailLatch = true) ∨
    (s.conditions.refillFault = true ∧ s.engine.haltRouting.refillFault = true) ∨
    (s.conditions.engineLost = true ∧ s.engine.haltRouting.engineLost = true) := by
  simp only [ConditionSet.any, State.haltCauses, ConditionSet.inter, haltEnabled, Bool.and_true, Bool.and_false,
    Bool.or_false, Bool.or_eq_true, Bool.and_eq_true, or_assoc]

theorem haltLevel_running (h : s.startUp = .running) : s.haltLevel = s.haltCauses.any := by
  rw [State.haltLevel, h]

theorem haltUpdate_same (h : s.engine.halt = s.haltLevel) : haltUpdate s = s := if_pos h.symm

/-- HALT at the given level, with the silence timer that this level leaves (R172, R174). -/
def haltMoved (level : Bool) (s : State) : State := silenceStart (s.mapEngine fun e => { e with halt := level })

theorem haltUpdate_moved (h : s.haltLevel ≠ s.engine.halt) : haltUpdate s =
    raise (.engine (if s.haltLevel then .haltOn s.haltCauses else .haltOff) s.engine.state)
      (haltMoved s.haltLevel s) := if_neg h

/-- The notice of a change leaves the engine link as the change did. -/
theorem haltUpdate_engine (h : s.haltLevel ≠ s.engine.halt) :
    (haltUpdate s).engine = (haltMoved s.haltLevel s).engine := by
  obtain ⟨k, hk⟩ := raise_control (.engine (if s.haltLevel then .haltOn s.haltCauses else .haltOff) s.engine.state)
    (haltMoved s.haltLevel s)
  rw [haltUpdate_moved h, hk]

/-- HALT stands at the level that the state gave. -/
theorem haltUpdate_level (s : State) : (haltUpdate s).engine.halt = s.haltLevel := by
  by_cases h : s.haltLevel = s.engine.halt
  · rw [haltUpdate_same h.symm, h]
  · rw [haltUpdate_engine h]
    rfl

/-- A rise of HALT stops the silence timer. -/
theorem haltMoved_rise (s : State) :
    haltMoved true s = { s with engine := { s.engine with halt := true, silence := none } } := by
  simp [haltMoved, silenceStart, State.silenceMayRun, State.mapEngine]

/-- A fall of HALT starts the silence timer while the engine is PRINTING and no feed ask is outstanding. -/
theorem haltMoved_fall (s : State) : haltMoved false s = { s with engine := { s.engine with
    halt := false
    silence :=
      if s.engine.state = .printing ∧ s.engine.feedAsk = none then some (s.clock.now + 30000) else none } } := by
  simp [haltMoved, silenceStart, State.silenceMayRun, State.mapEngine, Config.silenceTime]

/-- Settles O60: HALT takes its level, and a change of it moves the silence timer and raises one notice. -/
theorem haltRule : Obligations.HaltRule := by
  unfold Obligations.HaltRule
  intro s hr
  refine ⟨?_, haltUpdate_same, fun hh hl => ?_, fun hh hl => ?_⟩
  · rw [haltUpdate_level, haltLevel_running hr]
    exact haltCauses_any s
  · rw [haltUpdate_moved (by simp [hh, hl]), hl, haltMoved_rise, if_pos rfl]
  · rw [haltUpdate_moved (by simp [hh, hl]), hl, haltMoved_fall, if_neg Bool.false_ne_true]

/-! ## The refusals of the frames that name a print (R168 to R171) -/

theorem printOf_stopped {n : Nat} (h : s.engine.stopped = some n) : printOf n s = .error .stopped := if_pos h

theorem printOf_state {n : Nat} (hs : s.engine.stopped ≠ some n) (hp : s.engine.state ≠ .printing) :
    printOf n s = .error .state := by
  rw [printOf, if_neg hs, if_pos hp]

theorem printOf_handle {n : Nat} (hs : s.engine.stopped ≠ some n) (hp : s.engine.state = .printing)
    (ha : ∀ p, s.active = some p → p.handle ≠ n) : printOf n s = .error .handle := by
  rw [printOf, if_neg hs, if_neg (not_not.mpr hp)]
  split
  · exact if_neg (ha _ ‹_›)
  · rfl

section ending

variable {n : Nat} (tag : Nat) (effect : PrintRecord → State → State)

/-- The ending of the stopped print is what the part waits for: its handle is forgotten (R170, R171). -/
theorem endingFrame_stopped (ho : printOf n s = .error .stopped) :
    endingFrame tag n effect s = answerTaken tag (dropStopped s) := by
  simp only [endingFrame, ho]

theorem endingFrame_state (ho : printOf n s = .error .state) :
    endingFrame tag n effect s = refuseFrame tag .state s := by
  simp only [endingFrame, ho]

theorem endingFrame_handle (ho : printOf n s = .error .handle) :
    endingFrame tag n effect s = refuseFrame tag .handle s := by
  simp only [endingFrame, ho]

end ending

/-- The four frames that name a handle, each refused for the same reason and answered as `endings` says where it ends a
print. -/
theorem frames_refused {n : Nat} {why : EngineRefusal} (tag : Nat) (hl : s.engine.lost = false)
    (ho : printOf n (silenceRefresh s) = .error why) {ending : State}
    (he : ∀ effect, endingFrame tag n effect (silenceRefresh s) = ending) :
    (∀ r : SwathReport, r.handle = n → exec (.swath tag r) s = .next (refuseFrame tag why (silenceRefresh s))) ∧
    (∀ d, exec (.feedAsk tag n d) s = .next (refuseFrame tag why (silenceRefresh s))) ∧
    exec (.printDone tag n) s = .next ending ∧
    ∀ cause, cause < 5 → exec (.printFail tag n cause) s = .next ending := by
  have heard := hearAndRefresh_heard hl
  refine ⟨fun r hr => congrArg Host.Outcome.next ?_, fun d => congrArg Host.Outcome.next ?_,
    congrArg Host.Outcome.next ?_, fun cause hc => congrArg Host.Outcome.next ?_⟩
  · simp only [swathFrame, heard, hr, ho]
  · simp only [feedAskFrame, heard, ho]
  · rw [heard, he]
  · rw [printFailFrame, if_neg (Nat.not_le.mpr hc), heard, he]

/-- Settles O39: by what the handle meets in `printOf`, the silence timer started again before it. -/
theorem engineRefusals : Obligations.EngineRefusals := by
  unfold Obligations.EngineRefusals
  intro tag n s hl
  refine ⟨fun hs => ?_, fun hs hp => ?_, fun hs hp ha => ?_⟩
  · have ho : printOf n (silenceRefresh s) = .error .stopped := printOf_stopped hs
    exact frames_refused tag hl ho fun effect => endingFrame_stopped tag effect ho
  · have ho : printOf n (silenceRefresh s) = .error .state := printOf_state hs hp
    exact frames_refused tag hl ho fun effect => endingFrame_state tag effect ho
  · have ho : printOf n (silenceRefresh s) = .error .handle := printOf_handle hs hp ha
    exact frames_refused tag hl ho fun effect => endingFrame_handle tag effect ho

/-! ## ENGINE_LOST, ENGINE_READY and the silence timer's expiry (R164, R166, R172) -/

/-- A frame of the engine ends ENGINE_LOST with its notice (R172, R176). -/
def heardAgain (kind : Nat) (s : State) : State :=
  haltUpdate (raise (.engine (.heard kind) s.engine.state) { s with engine := { s.engine with lost := false } })

theorem hear_lost (h : s.engine.lost = true) (kind : Nat) : hear kind s = heardAgain kind s := if_pos h

theorem hear_heard (h : s.engine.lost = false) (kind : Nat) : hear kind s = s := by simp [hear, h]

theorem haltUpdate_lost (s : State) : (haltUpdate s).engine.lost = s.engine.lost := by
  by_cases h : s.haltLevel = s.engine.halt
  · rw [haltUpdate_same h.symm]
  · rw [haltUpdate_engine h]
    rfl

theorem heardAgain_lost (kind : Nat) (s : State) : (heardAgain kind s).engine.lost = false := by
  obtain ⟨k, hk⟩ := raise_control (.engine (.heard kind) s.engine.state)
    { s with engine := { s.engine with lost := false } }
  rw [heardAgain, haltUpdate_lost, hk]

/-- Once it has been heard the frame is taken as any other. -/
theorem hear_again (h : s.engine.lost = true) (kind : Nat) : hear kind s = hear kind (heardAgain kind s) := by
  rw [hear_lost h, hear_heard (heardAgain_lost kind s)]

theorem hearAndRefresh_again (h : s.engine.lost = true) (kind : Nat) :
    hearAndRefresh kind s = hearAndRefresh kind (heardAgain kind s) := congrArg silenceRefresh (hear_again h kind)

theorem readyFrame_printing (hl : s.engine.lost = false) (hp : s.engine.state = .printing) (tag : Nat) :
    readyFrame tag s = refreshPanel (s.tell (.refused tag .state)) := by
  simp only [readyFrame, hear_heard hl, hp, if_true]

theorem readyFrame_asks (hl : s.engine.lost = false) (hp : s.engine.state ≠ .printing) (tag : Nat) :
    readyFrame tag s = refreshPanel (answerReady (settle
      { s with engine := { s.engine with state := .asking, readyTag := some tag } })) := by
  simp only [readyFrame, hear_heard hl, hp, if_false, State.mapEngine]

/-- The ACTIVE print is spoiled, and ENGINE_LOST holds (R172). -/
theorem silenceExpires_spoils {d : Nat} {p : PrintRecord} (ha : s.active = some p) (hd : d ≤ s.clock.now) :
    silenceExpires d s = finish (haltUpdate (engineNotice (.lost p.handle)
      ((spoilActive p true s).mapEngine fun e => { e with lost := true }))) := by
  simp only [silenceExpires, timeTo_past hd, ha]

theorem exec_silenceTimeout {d : Nat} (h : s.engine.silence = some d) :
    exec .silenceTimeout s = .next (silenceExpires d s) := by
  change execSilenceTimeout s = _
  rw [execSilenceTimeout, h]

theorem exec_silenceTimeout_still (h : s.engine.silence = none) : exec .silenceTimeout s = .next s := by
  change execSilenceTimeout s = _
  rw [execSilenceTimeout, h]

/-- Settles O37: each frame by whether ENGINE_LOST holds, and the expiry by whether the timer runs. -/
theorem engineReadyFrames : Obligations.EngineReadyFrames := by
  unfold Obligations.EngineReadyFrames
  refine ⟨fun tag s hl => ⟨fun hp => congrArg _ (readyFrame_printing hl hp tag),
    fun hp => congrArg _ (readyFrame_asks hl hp tag), fun kind => ?_⟩, fun tag s hl => ?_, fun s =>
    ⟨fun d p hs ha hd => ?_, exec_silenceTimeout_still⟩⟩
  · exact congrArg (fun u => Host.Outcome.next (refuseFrame tag .unknownKind u)) (hearAndRefresh_heard hl kind)
  · have again := hearAndRefresh_again hl
    refine ⟨fun kind => heardAgain_lost kind s, congrArg Host.Outcome.next ?_, fun r => congrArg Host.Outcome.next ?_,
      fun h d => congrArg Host.Outcome.next ?_, fun h => ?_, fun h cause => congrArg Host.Outcome.next ?_,
      fun kind => ?_⟩
    · change readyFrame tag s = readyFrame tag (heardAgain 0x40 s)
      rw [readyFrame, hear_again hl, ← readyFrame]
    · change swathFrame tag r s = swathFrame tag r (heardAgain 0x41 s)
      rw [swathFrame, again, ← swathFrame]
    · change feedAskFrame tag h d s = feedAskFrame tag h d (heardAgain 0x42 s)
      rw [feedAskFrame, again, ← feedAskFrame]
    · exact congrArg (fun u => Host.Outcome.next (endingFrame tag h finishImaging u)) (again 0x43)
    · change printFailFrame tag h cause s = printFailFrame tag h cause (heardAgain 0x44 s)
      rw [printFailFrame, again, ← printFailFrame]
    · exact congrArg (fun u => Host.Outcome.next (refuseFrame tag .unknownKind u)) (again kind)
  · rw [exec_silenceTimeout hs, silenceExpires_spoils ha hd]

end Sys2Proof.Machine
end

section
/-! PROOFS. HALT, ATTN and the four lamps along every step: what ends with `finish` or with the panel's refresh puts
each line at its level, and what ends otherwise touches nothing that a line follows (R173, R190 to R192). -/

namespace Sys2Proof.Machine

open Sys2Proof

variable {s t : State}

/-! ## HALT at its level -/

/-- HALT stands at the level that its conditions give: all that the panel's refresh needs to put every line at its
own. -/
def HaltFollows (s : State) : Prop := s.engine.halt = s.haltLevel

theorem LinesFollow.follows (h : LinesFollow s) : HaltFollows s := h.halt

theorem HaltFollows.panel (h : HaltFollows s) : LinesFollow (refreshPanel s) := refreshPanel_lines h

theorem haltUpdate_follows (s : State) : HaltFollows (haltUpdate s) := haltUpdate_halt s

theorem settle_follows (s : State) : HaltFollows (settle s) := settleLoop_halt 64 s

theorem finish_follows (s : State) : HaltFollows (finish s) := (finish_lines s).follows

theorem timeTo_follows (h : HaltFollows s) (d : Nat) : HaltFollows (timeTo d s) := h

theorem HaltFollows.raise (h : HaltFollows s) (b : NoticeBody) : HaltFollows (raise b s) := by
  obtain ⟨k, hk⟩ := raise_control b s
  rw [hk]
  exact h

theorem HaltFollows.flushKind (h : HaltFollows s) (d : Bool) (kind : NoticeKind) :
    HaltFollows (flushKind d kind s) := by
  obtain ⟨k, hk⟩ := flushKind_control d kind s
  rw [hk]
  exact h

theorem HaltFollows.flushDeferred (h : HaltFollows s) : HaltFollows (flushDeferred s) := by
  refine List.foldlRecOn (motive := HaltFollows) noticeKinds _ h fun u hu kind _ => ?_
  split
  · exact hu.flushKind true kind
  · exact hu

theorem writeMask_follows (h : HaltFollows s) (kind : NoticeKind) (mask : Bool) :
    HaltFollows (writeMask kind mask s) := by
  have hm : HaltFollows (s.mapNotice kind fun n => { n with mask := mask }) := h
  unfold writeMask
  dsimp only
  split
  · exact hm
  · exact hm.flushKind false kind

theorem drainSendList_follows (h : HaltFollows s) (n : Nat) : HaltFollows (drainSendList n s) := by
  have hd : HaltFollows (drained n s) := h
  rw [drainSendList_eq]
  split
  · exact hd.flushDeferred
  · exact hd

theorem dayTimer_follows (h : HaltFollows s) : HaltFollows (dayTimer s) := by
  unfold dayTimer
  split <;> exact h

theorem autoCalibrate_follows (h : HaltFollows s) : HaltFollows (autoCalibrate s) := by
  unfold autoCalibrate
  split <;> exact h

/-! ## What no line follows -/

section aside

variable (h : LinesFollow s)

include h

theorem LinesFollow.ofMeter (m : InkMeter) : LinesFollow { s with meter := m } := ⟨h.halt, h.attn, h.lit⟩

theorem LinesFollow.ofCost (k : CostUnit) : LinesFollow { s with cost := k } := ⟨h.halt, h.attn, h.lit⟩

theorem LinesFollow.ofColour (u : ColourUnit) : LinesFollow { s with colour := u } := ⟨h.halt, h.attn, h.lit⟩

theorem LinesFollow.ofInputs (i : SensorLevels) : LinesFollow { s with inputs := i } := ⟨h.halt, h.attn, h.lit⟩

theorem LinesFollow.ofLinks (k : Links) : LinesFollow { s with links := k } := ⟨h.halt, h.attn, h.lit⟩

theorem LinesFollow.ofPending (q : List Instr) : LinesFollow { s with pending := q } := ⟨h.halt, h.attn, h.lit⟩

theorem LinesFollow.ofDay (day deadline : Option Nat) :
    LinesFollow { s with clock := { s.clock with day := day, dayDeadline := deadline } } := ⟨h.halt, h.attn, h.lit⟩

/-- The frames sent to the engine are no condition's. -/
theorem LinesFollow.tell (f : EngineFrame) : LinesFollow (s.tell f) := ⟨h.halt, h.attn, h.lit⟩

/-- The tag bus is no condition's. -/
theorem LinesFollow.nextTransfer : LinesFollow (nextTransfer s) := ⟨h.halt, h.attn, h.lit⟩

/-- Of the stored settings the lines follow the routings and the lamps alone. -/
theorem LinesFollow.ofSettings (level : AccessLevel) (studio service margin : Nat) (policy : UncheckedPolicy) :
    LinesFollow { s with control := { s.control with
      level := level, studioPassword := studio, servicePassword := service, inkMargin := margin, policy := policy } } :=
  ⟨h.halt, h.attn, h.lit⟩

theorem autoCalibrate_lines : LinesFollow (autoCalibrate s) := by
  unfold autoCalibrate
  split
  · exact h.ofColour _
  · exact h

end aside

/-- A test of the channels' records sees no change of one that it answers as before. -/
theorem mapChannel_any (s : State) (c : Chan) {f : Channel → Channel} {test : Channel → Bool}
    (ht : test (f (s.channel c)) = test (s.channel c)) :
    (s.mapChannel c f).ink.channels.toList.any test = s.ink.channels.toList.any test := by
  have hm : (s.ink.channels.set c (f (s.channel c))).map test = s.ink.channels.map test := by
    rw [Vector.map_set, ht]
    ext i hi
    by_cases hc : c.val = i
    · subst hc
      simp [State.channel]
    · simp [hc]
  have ha : ∀ v : PerChan Channel, v.toList.any test = (v.map test).toList.any id := fun v => by
    simp [Vector.toList_map, List.any_map]
  rw [ha, ha, ← hm]
  rfl

/-- Of a channel's record the lines follow the indication and the refill state alone. -/
theorem LinesFollow.mapChannel (h : LinesFollow s) (c : Chan) {f : Channel → Channel}
    (hi : (f (s.channel c)).indication = (s.channel c).indication)
    (hr : (f (s.channel c)).refill = (s.channel c).refill) : LinesFollow (s.mapChannel c f) := by
  have hc : (s.mapChannel c f).conditions = s.conditions := by
    unfold State.conditions
    rw [mapChannel_any s c (by rw [hi]), mapChannel_any s c (by rw [hr])]
    rfl
  have hs : ∀ source, (s.mapChannel c f).sourceHolds source = s.sourceHolds source := fun source => by
    cases source
    case anyLow => exact mapChannel_any s c (by rw [hi])
    case anyOut => exact congrArg (·.inkOut) hc
    all_goals rfl
  refine ⟨h.halt.trans ?_, h.attn.trans ?_, fun i => (h.lit i).trans ?_⟩
  · unfold State.haltLevel State.haltCauses
    rw [hc]
    rfl
  · unfold State.attnLevel
    rw [hc]
    rfl
  · unfold State.lampLit
    rw [hs]
    rfl

theorem lampLit_restoring (h : s.startUp = .restoring) (l : LampSetting) : s.lampLit l = false := by
  rw [State.lampLit, h]

/-- Once the conditions are restored a lamp is lit by its source and its blink mode (R190, R191). -/
theorem lampLit_restored (h : s.startUp ≠ .restoring) (l : LampSetting) :
    s.lampLit l = ((s.sourceHolds l.source != l.invert) && l.blink.lights s.clock.now) := by
  cases hs : s.startUp
  case restoring => exact absurd hs h
  all_goals rw [State.lampLit, hs]

/-- Between two boundaries of the blink timebase a millisecond changes no lamp (R191). -/
theorem LinesFollow.ofMillisecond (h : LinesFollow s) (hb : s.clock.now % 125 ≠ 124) :
    LinesFollow (timeTo (s.clock.now + 1) s) := by
  have hn : max s.clock.now (s.clock.now + 1) / 125 = s.clock.now / 125 := by omega
  refine ⟨h.halt, h.attn, fun i => (h.lit i).trans ?_⟩
  change s.lampLit s.control.lamps[i] = (timeTo (s.clock.now + 1) s).lampLit s.control.lamps[i]
  by_cases hs : s.startUp = .restoring
  · rw [lampLit_restoring hs, lampLit_restoring (s := timeTo (s.clock.now + 1) s) hs]
  · rw [lampLit_restored hs, lampLit_restored (s := timeTo (s.clock.now + 1) s) hs, timeTo, blink_same _ hn]
    rfl

/-! ## Requests -/

section requests

variable (h : LinesFollow s) (tag : Nat)

include h

theorem request_lines (kind : Nat) (level : AccessLevel) {body : State → State} (hb : LinesFollow (body s)) :
    LinesFollow (request tag kind level body s) := by
  unfold request
  split
  · exact hb
  · exact h.reply ..

theorem settingRequest_lines {α : Type} (value : Option α) {write : α → State → State} (now : α → SettingNow)
    (hw : ∀ v, LinesFollow (write v s)) : LinesFollow (settingRequest tag value write now s) := by
  refine request_lines h _ _ _ ?_
  split
  · exact h.reply ..
  · exact (hw _).reply ..

theorem accessRequest_lines (level password : Nat) : LinesFollow (accessRequest tag level password s) := by
  have become (l : AccessLevel) : LinesFollow (s.mapControl fun k => { k with level := l }) :=
    h.ofSettings _ _ _ _ _
  unfold accessRequest
  dsimp only
  split
  · exact h.reply ..
  · exact (become _).reply ..
  all_goals
    split <;> exact (become _).reply ..

theorem passwordRequest_lines (level password : Nat) : LinesFollow (passwordRequest tag level password s) := by
  unfold passwordRequest
  split
  case h_3 => exact h.reply ..
  all_goals
    split
    · exact (h.ofSettings _ _ _ _ _).reply ..
    · exact h.reply ..

theorem identRequest_lines (clear : Bool) (fields : ReplyFields) :
    LinesFollow (reply tag .ok 0x03 fields (if clear then clearFaultCounters s else s)) := by
  cases clear
  · exact h.reply ..
  · exact (h.ofLinks _).reply ..

/-! ### The requests that read or write one table -/

theorem printQueryReply_lines (n : Option Nat) : LinesFollow (printQueryReply tag n s) := by
  unfold printQueryReply
  split
  · exact h.reply ..
  · split <;> exact h.reply ..

theorem inkQueryReply_lines (c : Option Nat) : LinesFollow (inkQueryReply tag c s) := by
  unfold inkQueryReply
  split
  · exact h.reply ..
  · split <;> exact h.reply ..

theorem meterQueryReply_lines (c : Option Nat) : LinesFollow (meterQueryReply tag c s) := by
  unfold meterQueryReply
  split
  · exact h.reply ..
  · split <;> exact h.reply ..

theorem editionQueryReply_lines (id : Option Nat) : LinesFollow (editionQueryReply tag id s) := by
  unfold editionQueryReply
  split
  · exact h.reply ..
  · split <;> exact h.reply ..

theorem closedQueryReply_lines (start : Nat) : LinesFollow (closedQueryReply tag start s) := by
  unfold closedQueryReply
  split <;> exact h.reply ..

theorem costReadRequest_lines : LinesFollow (costReadRequest tag s) := by
  unfold costReadRequest
  split <;> exact h.reply ..

theorem referenceQueryRequest_lines (index : Nat) : LinesFollow (referenceQueryRequest tag index s) := by
  unfold referenceQueryRequest
  split <;> exact h.reply ..

theorem trimRequest_lines (channel trim : Nat) : LinesFollow (trimRequest tag channel trim s) := by
  unfold trimRequest
  split
  · exact h.reply ..
  · split
    · exact h.reply ..
    · exact (h.ofMeter _).reply ..

theorem dropRowRequest_lines (row small medium large : Nat) :
    LinesFollow (dropRowRequest tag row small medium large s) := by
  unfold dropRowRequest
  split
  · exact h.reply ..
  · split
    · exact h.reply ..
    · exact (h.ofMeter _).reply ..

theorem manualRequest_lines (mode row : Nat) : LinesFollow (manualRequest tag mode row s) := by
  unfold manualRequest
  split
  · split
    · exact h.reply ..
    · exact (h.ofMeter _).reply ..
  · exact h.reply ..

theorem tariffRequest_lines (lot price : Nat) : LinesFollow (tariffRequest tag lot price s) := by
  unfold tariffRequest
  split
  · exact h.reply ..
  · split
    · exact h.reply ..
    · exact (h.ofCost _).reply ..

theorem mediaSetRequest_lines (mediaType : Nat) (name : List Byte) (price : Nat) (adjustment : Int) :
    LinesFollow (mediaSetRequest tag mediaType name price adjustment s) := by
  unfold mediaSetRequest
  split
  · exact h.reply ..
  · split
    · exact (h.ofCost _).reply ..
    · exact h.reply ..

theorem writeSet_lines (i : Fin 32) (r : RefSet) : LinesFollow (writeSet i r s) := h.ofColour _

theorem referenceLoadRequest_lines (index count : Nat) (patches : List Patch) (warn fail : Nat) :
    LinesFollow (referenceLoadRequest tag index count patches warn fail s) := by
  unfold referenceLoadRequest
  split
  · exact h.reply ..
  · split
    · exact h.reply ..
    · split
      · exact h.reply ..
      · exact (writeSet_lines h _ _).reply ..

theorem referenceSealRequest_lines (index : Nat) : LinesFollow (referenceSealRequest tag index s) := by
  unfold referenceSealRequest
  split
  · exact h.reply ..
  · dsimp only
    split
    · exact h.reply ..
    · exact (writeSet_lines h _ _).reply ..

theorem calibrateRequest_lines : LinesFollow (calibrateRequest tag s) := by
  unfold calibrateRequest
  split
  · exact h.reply ..
  · exact (h.ofColour _).reply ..

/-! ### The requests that move the machine: refused, or carried to their end -/

omit h in
theorem finish_answered (code : ReplyCode) (kind : Nat) (fields : ReplyFields) (u : State) :
    LinesFollow (reply tag code kind fields (finish u)) := (finish_lines u).reply ..

omit h in
/-- A test of a request: every line follows on both sides. -/
theorem lines_ite {c : Prop} [Decidable c] {a b : State} (ha : LinesFollow a) (hb : LinesFollow b) :
    LinesFollow (if c then a else b) := by
  split
  · exact ha
  · exact hb

theorem clearLatchRequest_lines : LinesFollow (clearLatchRequest tag s) := by
  unfold clearLatchRequest
  split
  · exact h.reply ..
  · exact finish_answered ..

theorem clearChannelRequest_lines (channel : Nat) : LinesFollow (clearChannelRequest tag channel s) := by
  unfold clearChannelRequest
  split
  · exact h.reply ..
  · exact lines_ite (finish_answered ..) (h.reply ..)

theorem clearTransportRequest_lines : LinesFollow (clearTransportRequest tag s) :=
  lines_ite (h.reply ..) (lines_ite (h.reply ..) (finish_answered ..))

theorem submitRequest_lines (d : PrintDescription) : LinesFollow (submitRequest tag d s) := by
  refine lines_ite (h.reply ..) (lines_ite (h.reply ..) ?_)
  split
  · split
    · exact h.reply ..
    · exact lines_ite (finish_answered ..) (h.reply ..)
  · exact finish_answered ..
  · exact h.reply ..

theorem releaseRequest_lines (n : Nat) : LinesFollow (releaseRequest tag n s) := by
  unfold releaseRequest
  split
  · exact h.reply ..
  · exact lines_ite (finish_answered ..) (h.reply ..)

theorem cancelRequest_lines (n : Nat) : LinesFollow (cancelRequest tag n s) := by
  unfold cancelRequest
  split
  · exact h.reply ..
  · split
    case h_1 | h_2 | h_3 => exact finish_answered ..
    all_goals exact h.reply ..

theorem colourRequest_lines (channel code : Nat) : LinesFollow (colourRequest tag channel code s) := by
  unfold colourRequest
  split
  · exact h.reply ..
  · exact lines_ite (h.reply ..) (lines_ite (h.reply ..) (finish_answered ..))

theorem rollLoadRequest_lines (mediaType width length serial : Nat) :
    LinesFollow (rollLoadRequest tag mediaType width length serial s) :=
  lines_ite (h.reply ..) (lines_ite (h.reply ..) (lines_ite (h.reply ..) (finish_answered ..)))

theorem rollConfirmRequest_lines : LinesFollow (rollConfirmRequest tag s) :=
  lines_ite (h.reply ..) (lines_ite (h.reply ..) (finish_answered ..))

theorem moveRequest_lines (distance : Nat) : LinesFollow (moveRequest tag distance s) :=
  lines_ite (h.reply ..) (lines_ite (h.reply ..) (lines_ite (h.reply ..) (lines_ite (h.reply ..) (finish_answered ..))))

theorem cutAtRequest_lines (position chute : Nat) : LinesFollow (cutAtRequest tag position chute s) := by
  unfold cutAtRequest
  dsimp only
  split
  · exact h.reply ..
  · exact lines_ite (h.reply ..) (lines_ite (h.reply ..) (lines_ite (h.reply ..) (lines_ite (h.reply ..)
      (lines_ite (h.reply ..) (lines_ite (h.reply ..) (finish_answered ..))))))

theorem cutNowRequest_lines (chute : Nat) : LinesFollow (cutNowRequest tag chute s) := by
  unfold cutNowRequest
  dsimp only
  split
  · exact h.reply ..
  · exact lines_ite (h.reply ..) (lines_ite (h.reply ..) (lines_ite (h.reply ..) (lines_ite (h.reply ..)
      (lines_ite (h.reply ..) (lines_ite (h.reply ..) (lines_ite (h.reply ..) (finish_answered ..)))))))

theorem editionOpenRequest_lines (id : Nat) (title : List Byte) (limit apLimit refSet mediaType : Nat) :
    LinesFollow (editionOpenRequest tag id title limit apLimit refSet mediaType s) :=
  lines_ite (h.reply ..) (lines_ite (h.reply ..) (lines_ite (h.reply ..) (lines_ite (h.reply ..)
    (lines_ite (h.reply ..) (lines_ite (h.reply ..) (finish_answered ..))))))

theorem editionHoldRequest_lines (id : Nat) : LinesFollow (editionHoldRequest tag id s) := by
  unfold editionHoldRequest
  split
  · exact h.reply ..
  · exact lines_ite (finish_answered ..) (h.reply ..)

theorem editionResumeRequest_lines (id : Nat) : LinesFollow (editionResumeRequest tag id s) := by
  unfold editionResumeRequest
  split
  · exact h.reply ..
  · exact lines_ite (finish_answered ..) (h.reply ..)

theorem editionCloseRequest_lines (id : Nat) : LinesFollow (editionCloseRequest tag id s) := by
  unfold editionCloseRequest
  split
  · exact h.reply ..
  · exact lines_ite (h.reply ..) (lines_ite (h.reply ..) (lines_ite (h.reply ..) (finish_answered ..)))

theorem editionArchiveRequest_lines (id : Nat) : LinesFollow (editionArchiveRequest tag id s) := by
  unfold editionArchiveRequest
  split
  · exact h.reply ..
  · exact lines_ite (h.reply ..) (lines_ite (h.reply ..) ((haltUpdate_follows _).panel.reply ..))

theorem costDropRequest_lines (sequence : Nat) : LinesFollow (costDropRequest tag sequence s) := by
  unfold costDropRequest
  split
  · exact h.reply ..
  · exact lines_ite (finish_answered ..) (h.reply ..)

theorem factoryRequest_lines : LinesFollow (factoryRequest tag s) := lines_ite (h.reply ..) (finish_answered ..)

omit h in
theorem resetRequest_lines (s : State) : LinesFollow (resetRequest tag s) := finish_answered ..

end requests

/-! ## The engine's frames and the silence timer's expiry -/

theorem hear_follows (h : HaltFollows s) (kind : Nat) : HaltFollows (hear kind s) := by
  unfold hear
  split
  · exact haltUpdate_follows _
  · exact h

theorem answerReady_follows (h : HaltFollows s) : HaltFollows (answerReady s) := by
  unfold answerReady
  split <;> exact h

theorem readyFrame_lines (h : HaltFollows s) (tag : Nat) : LinesFollow (readyFrame tag s) := by
  unfold readyFrame
  dsimp only
  split
  · exact HaltFollows.panel (hear_follows h 0x40)
  · exact (answerReady_follows (settle_follows _)).panel

theorem answerTaken_lines (tag : Nat) (s : State) : LinesFollow (answerTaken tag s) := (finish_lines s).tell _

theorem refuseFrame_lines (tag : Nat) (why : EngineRefusal) (s : State) : LinesFollow (refuseFrame tag why s) :=
  finish_lines _

theorem swathFrame_lines (tag : Nat) (report : SwathReport) (s : State) : LinesFollow (swathFrame tag report s) := by
  unfold swathFrame
  dsimp only
  split
  · exact refuseFrame_lines ..
  · exact lines_ite (answerTaken_lines ..) (answerTaken_lines ..)

theorem feedAskFrame_lines (tag n d : Nat) (s : State) : LinesFollow (feedAskFrame tag n d s) := by
  unfold feedAskFrame
  dsimp only
  split
  · exact refuseFrame_lines ..
  · exact lines_ite (refuseFrame_lines ..) (finish_lines _)

theorem endingFrame_lines (tag n : Nat) (effect : PrintRecord → State → State) (s : State) :
    LinesFollow (endingFrame tag n effect s) := by
  unfold endingFrame
  split
  · exact answerTaken_lines ..
  · exact refuseFrame_lines ..
  · exact answerTaken_lines ..

theorem printFailFrame_lines (tag n cause : Nat) (s : State) : LinesFollow (printFailFrame tag n cause s) :=
  lines_ite (refuseFrame_lines ..) (endingFrame_lines ..)

theorem silenceExpires_lines (d : Nat) (s : State) : LinesFollow (silenceExpires d s) := by
  unfold silenceExpires
  dsimp only
  split <;> exact finish_lines _

/-! ## Events without effect, or carried to their end -/

/-- An event that finds nothing to act on leaves the state as it is, and any other ends as every event does. -/
def Concluded (s t : State) : Prop := t = s ∨ ∃ u, t = finish u

theorem Concluded.still (s : State) : Concluded s s := .inl rfl

theorem Concluded.finished (s u : State) : Concluded s (finish u) := .inr ⟨u, rfl⟩

theorem Concluded.lines (c : Concluded s t) (h : LinesFollow s) : LinesFollow t := by
  obtain rfl | ⟨u, rfl⟩ := c
  · exact h
  · exact finish_lines u

theorem Concluded.follows (c : Concluded s t) (h : HaltFollows s) : HaltFollows t := by
  obtain rfl | ⟨u, rfl⟩ := c
  · exact h
  · exact finish_follows u

theorem calibrationAnswer_concluded (tag : Nat) (ending : Bool → State → State) (s : State) :
    Concluded s (calibrationAnswer tag ending s) := by
  unfold calibrationAnswer
  split
  · split
    · exact .finished ..
    · exact .still s
  · exact .still s

theorem calibrationExpires_concluded (s : State) : Concluded s (calibrationExpires s) := by
  unfold calibrationExpires
  split
  · exact .finished ..
  · exact .still s

theorem readingsFrame_concluded (tag : Nat) (list : List Reading) (s : State) :
    Concluded s (readingsFrame tag list s) := by
  unfold readingsFrame
  split
  · split
    · split <;> exact .finished ..
    · exact .still s
  · exact .still s

theorem scanFaultFrame_concluded (tag cause : Nat) (s : State) : Concluded s (scanFaultFrame tag cause s) := by
  unfold scanFaultFrame
  split
  · split
    · exact .finished ..
    · exact .still s
  · exact .still s

theorem scanExpires_concluded (s : State) : Concluded s (scanExpires s) := by
  unfold scanExpires
  split
  · exact .finished ..
  · exact .still s

theorem flushExpires_concluded (s : State) : Concluded s (flushExpires s) := by
  unfold flushExpires
  split
  · exact .still s
  · exact .finished ..

theorem tagRead_concluded (result : Option TagData) (s : State) : Concluded s (tagRead result s) := by
  unfold tagRead
  split
  · exact .finished ..
  · exact .still s

theorem refillExpires_concluded (c : Chan) (s : State) : Concluded s (refillExpires c s) := by
  unfold refillExpires
  split
  · split
    · exact .finished ..
    · exact .still s
  · exact .still s

theorem drySensed_concluded (c : Chan) (s : State) : Concluded s (drySensed c s) := by
  unfold drySensed
  split
  · exact .finished ..
  · exact .still s

theorem arrival_concluded (s : State) : Concluded s (arrival s) := by
  unfold arrival
  split
  · exact .finished ..
  · exact .still s

theorem movementExpires_concluded (s : State) : Concluded s (movementExpires s) := by
  unfold movementExpires
  split
  · exact .still s
  · exact .finished ..

theorem driverFaults_concluded (s : State) : Concluded s (driverFaults s) := by
  unfold driverFaults
  split
  · exact .still s
  · exact .finished ..

theorem settleExpires_concluded (s : State) : Concluded s (settleExpires s) := by
  unfold settleExpires
  split
  · exact .still s
  · exact .finished ..

theorem bladeExpires_concluded (s : State) : Concluded s (bladeExpires s) := by
  unfold bladeExpires
  split
  · exact .still s
  · exact .finished ..

/-! ## The other events -/

section events

variable (h : LinesFollow s)

include h

theorem retryExpires_lines : LinesFollow (retryExpires s) := by
  unfold retryExpires
  split
  · exact h
  · exact HaltFollows.panel (autoCalibrate_follows h.halt)

theorem insertCartridge_lines (c : Chan) : LinesFollow (insertCartridge c s) :=
  lines_ite (finish_lines _) (h.ofInputs _)

theorem removeCartridge_lines (c : Chan) : LinesFollow (removeCartridge c s) := by
  unfold removeCartridge
  dsimp only
  split
  · exact h.ofInputs _
  all_goals exact finish_lines _

theorem tagWrite_lines (ok : Bool) : LinesFollow (tagWrite ok s) := by
  unfold tagWrite
  split
  · exact (lines_ite (h.mapChannel _ rfl rfl) h).nextTransfer
  · exact h.nextTransfer
  · exact h

theorem tagTimeout_lines : LinesFollow (tagTimeout s) := by
  unfold tagTimeout
  split
  · exact finish_lines _
  · exact HaltFollows.panel h.halt
  · exact h

theorem pulse_lines (c : Chan) : LinesFollow (pulse c s) :=
  lines_ite (lines_ite (finish_lines _) (h.mapChannel c rfl rfl)) h

theorem rollPresentTakes_lines (level : Bool) : LinesFollow (rollPresentTakes level s) :=
  lines_ite h (HaltFollows.raise (h.ofInputs _).follows _).panel

theorem rollEndTrips_lines : LinesFollow (rollEndTrips s) :=
  lines_ite (finish_lines _) (HaltFollows.raise (h.ofInputs _).follows _).panel

theorem flapSettles_lines : LinesFollow (flapSettles s) :=
  lines_ite ⟨h.halt, h.attn, h.lit⟩ ⟨h.halt, h.attn, h.lit⟩

theorem bladeReturns_lines : LinesFollow (bladeReturns s) := lines_ite (finish_lines _) (h.ofInputs _)

theorem bladeLeaves_lines : LinesFollow (bladeLeaves s) :=
  lines_ite ⟨h.halt, h.attn, h.lit⟩ (h.ofInputs _)

end events

/-! ## The links -/

section links

variable (h : HaltFollows s)

include h

theorem mapLink_follows (l : Link) (f : LinkState → LinkState) : HaltFollows (s.mapLink l f) := by
  cases l <;> exact h

theorem countFault_follows (l : Link) (cause : FrameFault) : HaltFollows (countFault l cause s) := by
  unfold countFault
  dsimp only
  split
  · exact (mapLink_follows h _ _).raise _
  · exact mapLink_follows h _ _

theorem discardFrame_follows (l : Link) (cause : FrameFault) : HaltFollows (discardFrame l cause s) :=
  countFault_follows (mapLink_follows h _ _) _ _

theorem gapExpires_follows (l : Link) : HaltFollows (gapExpires l s) := by
  unfold gapExpires
  split
  · exact discardFrame_follows (timeTo_follows h _) _ _
  · exact discardFrame_follows h _ _

theorem receiveFrame_follows (f : Frame) : HaltFollows (receiveFrame f s) := by
  unfold receiveFrame
  split
  · exact h
  · exact countFault_follows h _ _

theorem takeEngine_follows (f : Frame) : HaltFollows (takeEngine f s) := by
  unfold takeEngine
  split
  · exact (refuseFrame_lines ..).follows
  · split
    · exact (readyFrame_lines h _).follows
    · exact (swathFrame_lines ..).follows
    · exact (feedAskFrame_lines ..).follows
    · exact (endingFrame_lines ..).follows
    · exact (printFailFrame_lines ..).follows
    · exact (refuseFrame_lines ..).follows
    · exact h

theorem takeSpectro_follows (f : Frame) : HaltFollows (takeSpectro f s) := by
  unfold takeSpectro
  split
  · exact (calibrationAnswer_concluded ..).follows h
  · exact (calibrationAnswer_concluded ..).follows h
  · exact (readingsFrame_concluded ..).follows h
  · exact (scanFaultFrame_concluded ..).follows h
  · exact h

theorem endFrame_follows (l : Link) (f : Frame) (check : Nat) : HaltFollows (endFrame l f check s) := by
  have hm := mapLink_follows h l hunting
  unfold endFrame
  split
  · cases l with
    | control => exact receiveFrame_follows hm f
    | engine => exact takeEngine_follows hm f
    | spectro => exact takeSpectro_follows hm f
  · exact discardFrame_follows h _ _

theorem goOn_follows (l : Link) (v : Receiver) : HaltFollows (goOn l v s) := mapLink_follows h _ _

theorem receiveByte_follows (l : Link) (b : Byte) : HaltFollows (receiveByte l b s) := by
  unfold receiveByte
  split
  · split
    · exact goOn_follows h _ _
    · exact h
  · exact goOn_follows h _ _
  · dsimp only
    split
    · exact discardFrame_follows h _ _
    · exact goOn_follows h _ _
  · exact goOn_follows h _ _
  · exact goOn_follows h _ _
  · exact goOn_follows h _ _
  · exact goOn_follows h _ _
  · exact endFrame_follows h _ _ _

end links

/-! ## Power-on (R173, R203) -/

/-- While start-up has not worked the lines out, HALT is held asserted. -/
def HaltHeld (s : State) : Prop := s.startUp = .restoring ∧ s.engine.halt = true

theorem HaltHeld.follows (h : HaltHeld s) : HaltFollows s := by
  rw [HaltFollows, State.haltLevel, h.1, h.2]

theorem HaltHeld.inkFrame (h : HaltHeld s) (g : InkFrame s t) : HaltHeld t := by
  obtain ⟨_, _, _, rfl⟩ := g
  exact h

theorem reconcileMarker_startUp (s : State) : (reconcileMarker s).startUp = s.startUp := by
  unfold reconcileMarker
  split
  · rfl
  · dsimp only
    split <;> simp [saveInk, appendRecord]

theorem reconciled_held (levels : SensorLevels) (s : State) : HaltHeld (reconciled levels s) :=
  ⟨reconcileMarker_startUp _, congrArg (·.halt) (reconciled_leaves levels s).engine⟩

theorem rollTold_held (h : HaltHeld s) : HaltHeld (haltUpdate (rollNotice .ended (saveRoll s))) := by
  obtain ⟨r, hr⟩ := saveRoll_frame s
  obtain ⟨k, hk⟩ := rollNotice_control .ended { s with store := { s.store with roll := r } }
  have held : HaltHeld { s with store := { s.store with roll := r }, control := k } := h
  rw [hr, hk, haltUpdate_same held.follows]
  exact held

theorem restoreRoll_held (h : HaltHeld s) (hq : s.queue = .initial) (hm : s.media = .initial) :
    HaltHeld (restoreRoll s) := by
  unfold restoreRoll
  split
  · exact h
  · rename_i g _
    dsimp only
    split
    · exact h
    · rw [rollEnds_idle (s := s.mapMedia fun m => { m with rollState := .unverified, roll := g })
        (x := .unverified) (g := g) hq (by simp only [State.mapMedia, hm])]
      exact rollTold_held h

theorem examineSlot_held (h : HaltHeld s) (c : Chan) : HaltHeld (examineSlot s c) := by
  unfold examineSlot
  split
  · exact h
  · exact h.inkFrame (reconsider_frame c s)

/-- HALT is worked out, or held asserted until the last slot has been read. -/
theorem awaitReads_follows (h : HaltHeld s) : HaltFollows (awaitReads s) := by
  unfold awaitReads
  dsimp only
  split
  · exact haltUpdate_follows _
  · exact h.2

theorem restarted_lines (h : HaltHeld s) (hq : s.queue = .initial) (hm : s.media = .initial) :
    LinesFollow (restarted s) := by
  have flags : HaltHeld (workOutFlags (restoreRoll s)) := restoreRoll_held h hq hm
  have slots := List.foldlRecOn (motive := HaltHeld) channelList examineSlot flags fun _ hu c _ => examineSlot_held hu c
  have inks := List.foldlRecOn (motive := HaltHeld) channelList workOutIndication slots fun _ hu _ _ => hu
  exact autoCalibrate_lines (awaitReads_follows inks).panel

theorem powerOn_lines (levels : SensorLevels) (s : State) : LinesFollow (powerOn levels s) :=
  restarted_lines (reconciled_held levels s) (reconciled_leaves levels s).queue (reconciled_leaves levels s).media

/-! ## Every command, and the step -/

/-- Every command leaves each line at its level. -/
theorem exec_lines (c : Instr) (h : LinesFollow s) : ∃ t, exec c s = .next t ∧ LinesFollow t := by
  cases c with
  | powerOn => exact ⟨_, rfl, powerOn_lines ..⟩
  | access => exact ⟨_, rfl, request_lines h _ _ _ (accessRequest_lines h ..)⟩
  | passwordSet => exact ⟨_, rfl, passwordRequest_lines h ..⟩
  | ident => exact ⟨_, rfl, request_lines h _ _ _ (identRequest_lines h ..)⟩
  | date => exact ⟨_, rfl, request_lines h _ _ _ ((h.ofDay _ _).reply ..)⟩
  | setInkMargin => exact ⟨_, rfl, settingRequest_lines h _ _ _ fun _ => finish_lines _⟩
  | setUncheckedPolicy => exact ⟨_, rfl, settingRequest_lines h _ _ _ fun _ => h.ofSettings _ _ _ _ _⟩
  | setNoticeMask => exact ⟨_, rfl, settingRequest_lines h _ _ _ fun _ => (writeMask_follows h.halt ..).panel⟩
  | setLamp => exact ⟨_, rfl, settingRequest_lines h _ _ _ fun _ => HaltFollows.panel h.halt⟩
  | setHaltRouting => exact ⟨_, rfl, settingRequest_lines h _ _ _ fun _ => finish_lines _⟩
  | setAttnRouting => exact ⟨_, rfl, settingRequest_lines h _ _ _ fun _ => HaltFollows.panel h.halt⟩
  | settingsQuery => exact ⟨_, rfl, request_lines h _ _ _ (h.reply ..)⟩
  | reset => exact ⟨_, rfl, request_lines h _ _ _ (resetRequest_lines ..)⟩
  | factoryRestore => exact ⟨_, rfl, request_lines h _ _ _ (factoryRequest_lines h _)⟩
  | clearFaultChannel => exact ⟨_, rfl, request_lines h _ _ _ (clearChannelRequest_lines h ..)⟩
  | clearFaultTransport => exact ⟨_, rfl, request_lines h _ _ _ (clearTransportRequest_lines h _)⟩
  | clearFaultVerdictLatch => exact ⟨_, rfl, request_lines h _ _ _ (clearLatchRequest_lines h _)⟩
  | printSubmit => exact ⟨_, rfl, request_lines h _ _ _ (submitRequest_lines h ..)⟩
  | printRelease => exact ⟨_, rfl, request_lines h _ _ _ (releaseRequest_lines h ..)⟩
  | printCancel => exact ⟨_, rfl, request_lines h _ _ _ (cancelRequest_lines h ..)⟩
  | printQuery => exact ⟨_, rfl, request_lines h _ _ _ (printQueryReply_lines h ..)⟩
  | channelColour => exact ⟨_, rfl, request_lines h _ _ _ (colourRequest_lines h ..)⟩
  | inkQuery => exact ⟨_, rfl, request_lines h _ _ _ (inkQueryReply_lines h ..)⟩
  | trimSet => exact ⟨_, rfl, request_lines h _ _ _ (trimRequest_lines h ..)⟩
  | dropRowSet => exact ⟨_, rfl, request_lines h _ _ _ (dropRowRequest_lines h ..)⟩
  | manualModeSet => exact ⟨_, rfl, request_lines h _ _ _ (manualRequest_lines h ..)⟩
  | meterQuery => exact ⟨_, rfl, request_lines h _ _ _ (meterQueryReply_lines h ..)⟩
  | rollLoad => exact ⟨_, rfl, request_lines h _ _ _ (rollLoadRequest_lines h ..)⟩
  | rollConfirm => exact ⟨_, rfl, request_lines h _ _ _ (rollConfirmRequest_lines h _)⟩
  | move => exact ⟨_, rfl, request_lines h _ _ _ (moveRequest_lines h ..)⟩
  | rollQuery => exact ⟨_, rfl, request_lines h _ _ _ (h.reply ..)⟩
  | cutAt => exact ⟨_, rfl, request_lines h _ _ _ (cutAtRequest_lines h ..)⟩
  | cutNow => exact ⟨_, rfl, request_lines h _ _ _ (cutNowRequest_lines h ..)⟩
  | cutQuery => exact ⟨_, rfl, request_lines h _ _ _ (h.reply ..)⟩
  | referenceLoad => exact ⟨_, rfl, request_lines h _ _ _ (referenceLoadRequest_lines h ..)⟩
  | referenceSeal => exact ⟨_, rfl, request_lines h _ _ _ (referenceSealRequest_lines h ..)⟩
  | referenceQuery => exact ⟨_, rfl, request_lines h _ _ _ (referenceQueryRequest_lines h ..)⟩
  | calibrate => exact ⟨_, rfl, request_lines h _ _ _ (calibrateRequest_lines h _)⟩
  | colourQuery => exact ⟨_, rfl, request_lines h _ _ _ (h.reply ..)⟩
  | editionOpen => exact ⟨_, rfl, request_lines h _ _ _ (editionOpenRequest_lines h ..)⟩
  | editionHold => exact ⟨_, rfl, request_lines h _ _ _ (editionHoldRequest_lines h ..)⟩
  | editionResume => exact ⟨_, rfl, request_lines h _ _ _ (editionResumeRequest_lines h ..)⟩
  | editionClose => exact ⟨_, rfl, request_lines h _ _ _ (editionCloseRequest_lines h ..)⟩
  | editionArchive => exact ⟨_, rfl, request_lines h _ _ _ (editionArchiveRequest_lines h ..)⟩
  | editionQuery => exact ⟨_, rfl, request_lines h _ _ _ (editionQueryReply_lines h ..)⟩
  | closedQuery => exact ⟨_, rfl, request_lines h _ _ _ (closedQueryReply_lines h ..)⟩
  | tariffSet => exact ⟨_, rfl, request_lines h _ _ _ (tariffRequest_lines h ..)⟩
  | mediaSet => exact ⟨_, rfl, request_lines h _ _ _ (mediaSetRequest_lines h ..)⟩
  | costRead => exact ⟨_, rfl, request_lines h _ _ _ (costReadRequest_lines h _)⟩
  | costDrop => exact ⟨_, rfl, request_lines h _ _ _ (costDropRequest_lines h ..)⟩
  | priceQueryTariff => exact ⟨_, rfl, request_lines h _ _ _ (h.reply ..)⟩
  | priceQueryMedia => exact ⟨_, rfl, request_lines h _ _ _ (h.reply ..)⟩
  | priceQueryLog => exact ⟨_, rfl, request_lines h _ _ _ (h.reply ..)⟩
  | engineQuery => exact ⟨_, rfl, request_lines h _ _ _ (h.reply ..)⟩
  | unknownKind => exact ⟨_, rfl, h.reply ..⟩
  | frameCheckFault => exact ⟨_, rfl, (discardFrame_follows h.halt ..).panel⟩
  | frameLengthFault => exact ⟨_, rfl, (discardFrame_follows h.halt ..).panel⟩
  | gapTimeout => exact ⟨_, rfl, (gapExpires_follows h.halt _).panel⟩
  | overrun => exact ⟨_, rfl, (receiveFrame_follows h.halt _).panel⟩
  | linkByteReceived => exact ⟨_, rfl, (receiveByte_follows h.halt ..).panel⟩
  | sendListDrain => exact ⟨_, rfl, (drainSendList_follows h.halt _).panel⟩
  | engineReady => exact ⟨_, rfl, readyFrame_lines h.halt _⟩
  | swath => exact ⟨_, rfl, swathFrame_lines ..⟩
  | feedAsk => exact ⟨_, rfl, feedAskFrame_lines ..⟩
  | printDone => exact ⟨_, rfl, endingFrame_lines ..⟩
  | printFail => exact ⟨_, rfl, printFailFrame_lines ..⟩
  | engineUnknownKind => exact ⟨_, rfl, refuseFrame_lines ..⟩
  | silenceTimeout =>
    refine ⟨_, rfl, ?_⟩
    split
    · exact h
    · exact silenceExpires_lines ..
  | calibrated => exact ⟨_, rfl, (calibrationAnswer_concluded ..).lines h⟩
  | calibrationFault => exact ⟨_, rfl, (calibrationAnswer_concluded ..).lines h⟩
  | calibrationTimeout => exact ⟨_, rfl, (calibrationExpires_concluded s).lines h⟩
  | calibrationRetryExpiry => exact ⟨_, rfl, retryExpires_lines h⟩
  | readings => exact ⟨_, rfl, (readingsFrame_concluded ..).lines h⟩
  | scanFault => exact ⟨_, rfl, (scanFaultFrame_concluded ..).lines h⟩
  | scanTimeout => exact ⟨_, rfl, (scanExpires_concluded s).lines h⟩
  | spectroFrameIgnored => exact ⟨_, rfl, h⟩
  | flushWaitExpiry => exact ⟨_, rfl, (flushExpires_concluded s).lines h⟩
  | cartridgeInserted => exact ⟨_, rfl, insertCartridge_lines h _⟩
  | cartridgeRemoved => exact ⟨_, rfl, removeCartridge_lines h _⟩
  | tagReadDone => exact ⟨_, rfl, (tagRead_concluded ..).lines h⟩
  | tagWriteDone => exact ⟨_, rfl, tagWrite_lines h _⟩
  | tagTransferTimeout => exact ⟨_, rfl, tagTimeout_lines h⟩
  | flowPulse => exact ⟨_, rfl, pulse_lines h _⟩
  | refillTimeout => exact ⟨_, rfl, (refillExpires_concluded ..).lines h⟩
  | drySense => exact ⟨_, rfl, (drySensed_concluded ..).lines h⟩
  | driverArrival => exact ⟨_, rfl, (arrival_concluded s).lines h⟩
  | movementTimeout => exact ⟨_, rfl, (movementExpires_concluded s).lines h⟩
  | driverFault => exact ⟨_, rfl, (driverFaults_concluded s).lines h⟩
  | rollPresentChange => exact ⟨_, rfl, rollPresentTakes_lines h _⟩
  | rollEnd => exact ⟨_, rfl, rollEndTrips_lines h⟩
  | rollEndSensorShowsMedia => exact ⟨_, rfl, (HaltFollows.raise (h.ofInputs _).follows _).panel⟩
  | flapSettled => exact ⟨_, rfl, flapSettles_lines h⟩
  | settleLimitExpiry => exact ⟨_, rfl, (settleExpires_concluded s).lines h⟩
  | bladeHome => exact ⟨_, rfl, bladeReturns_lines h⟩
  | bladeLimitExpiry => exact ⟨_, rfl, (bladeExpires_concluded s).lines h⟩
  | bladeLeavesRest => exact ⟨_, rfl, bladeLeaves_lines h⟩
  | blinkPeriod => exact ⟨_, rfl, (timeTo_follows h.halt _).panel⟩
  | dayTimerExpiry => exact ⟨_, rfl, (dayTimer_follows h.halt).panel⟩

theorem handleFrame_lines (h : LinesFollow s) (f : Frame) : ∃ t, handleFrame f s = .next t ∧ LinesFollow t := by
  unfold handleFrame
  split
  · exact exec_lines _ h
  · exact ⟨_, rfl, h.reply ..⟩
  · exact ⟨_, rfl, request_lines h _ _ _ (h.reply ..)⟩

theorem tick_lines (h : LinesFollow s) : ∃ t, tick s = .next t ∧ LinesFollow t := by
  unfold tick
  split
  · exact exec_lines _ h
  · exact ⟨_, rfl, h.ofMillisecond ‹_›⟩

theorem running_lines (h : LinesFollow s) : ∃ t, running s = .next t ∧ LinesFollow t := by
  unfold running
  split
  · exact handleFrame_lines (h.ofLists _ _) _
  · split
    · exact exec_lines _ h
    · exact tick_lines h

theorem step_lines (h : LinesFollow s) : ∃ t, step s = .next t ∧ LinesFollow t := by
  unfold step
  split
  · unfold idle
    split
    · exact ⟨_, rfl, h⟩
    · exact running_lines h
  · exact exec_lines _ (h.ofPending _)

/-- Settles O9: by cases on the command; with none waiting a frame and an expiry are commands too, and a millisecond
between two boundaries of the blink timebase changes no lamp. -/
theorem linesFollowKept : Obligations.LinesFollowKept := by
  unfold Obligations.LinesFollowKept
  intro s t h ht
  obtain ⟨u, hu, hl⟩ := step_lines h
  rw [hu] at ht
  cases ht
  exact hl

end Sys2Proof.Machine
end

section
/-! PROOFS. The control link: access and passwords, the day and the identity, one step of the part, the frame faults,
and the occurrence of a notice. -/

namespace Sys2Proof.Machine

open Sys2Proof

variable {s : State}

/-! ## Access (R182, R187) -/

/-- Each request with an access level is that request's own body behind the access test of R182. -/
theorem exec_request {c : Instr} {tag kind : Nat} {level : AccessLevel} (h : requestLevel c = some (tag, kind, level))
    (s : State) : ∃ body, exec c s = .next (request tag kind level body s) := by
  cases c <;> simp only [requestLevel, reduceCtorEq, Option.some.injEq, Prod.mk.injEq] at h
  all_goals
    obtain ⟨rfl, rfl, rfl⟩ := h
    exact ⟨_, rfl⟩

theorem request_below {level : AccessLevel} (h : AccessLevel.rank s.control.level < AccessLevel.rank level)
    (tag kind : Nat) (body : State → State) : request tag kind level body s = reply tag .access kind .none s := by
  simp [request, levelAllows, h]

/-- Settles O18: below its level a request stops at the access test, whatever its body. -/
theorem belowLevelRefused : Obligations.BelowLevelRefused := by
  unfold Obligations.BelowLevelRefused
  intro c tag kind level s hc hl
  obtain ⟨body, hb⟩ := exec_request hc s
  rw [hb, request_below hl]

/-- The link at an access level. -/
def State.atLevel (l : AccessLevel) (s : State) : State := { s with control := { s.control with level := l } }

theorem exec_access (tag level password : Nat) (s : State) :
    exec (.access tag level password) s = .next (accessRequest tag level password s) := next_request_operator ..

theorem exec_passwordSet (tag level password : Nat) (s : State) :
    exec (.passwordSet tag level password) s = .next (passwordRequest tag level password s) := rfl

theorem levelOf_none {level : Nat} (h : 3 ≤ level) : levelOf level = none := by
  obtain ⟨n, rfl⟩ := Nat.exists_eq_add_of_le' h
  rfl

theorem accessRequest_range {level : Nat} (h : 3 ≤ level) (tag password : Nat) (s : State) :
    accessRequest tag level password s = reply tag .range 0x01 .none s := by
  rw [accessRequest, levelOf_none h]

/-- ACCESS to STUDIO is decided by the STUDIO password. -/
theorem accessRequest_studio (tag password : Nat) (s : State) : accessRequest tag 1 password s =
    if password = s.control.studioPassword then reply tag .ok 0x01 (.level .studio) (s.atLevel .studio)
    else reply tag .denied 0x01 .none (s.atLevel .operator) := rfl

/-- ACCESS to SERVICE is decided by the SERVICE password. -/
theorem accessRequest_service (tag password : Nat) (s : State) : accessRequest tag 2 password s =
    if password = s.control.servicePassword then reply tag .ok 0x01 (.level .service) (s.atLevel .service)
    else reply tag .denied 0x01 .none (s.atLevel .operator) := rfl

/-- PASSWORD_SET names a level outside the two that have a password. -/
theorem passwordRequest_range {level : Nat} (h : level = 0 ∨ 3 ≤ level) (tag password : Nat) (s : State) :
    passwordRequest tag level password s = reply tag .range 0x02 .none s := by
  rcases h with rfl | h
  · rfl
  · rw [passwordRequest, levelOf_none h]

theorem passwordRequest_studio (tag password : Nat) (s : State) : passwordRequest tag 1 password s =
    if levelAllows s.control.level .studio then
      reply tag .ok 0x02 .none { s with control := { s.control with studioPassword := password } }
    else reply tag .access 0x02 .none s := rfl

theorem passwordRequest_service (tag password : Nat) (s : State) : passwordRequest tag 2 password s =
    if levelAllows s.control.level .service then
      reply tag .ok 0x02 .none { s with control := { s.control with servicePassword := password } }
    else reply tag .access 0x02 .none s := rfl

/-- STUDIO is allowed to every level but OPERATOR (R187). -/
theorem allows_studio_iff (l : AccessLevel) : levelAllows l .studio = true ↔ l ≠ .operator := by
  cases l <;> decide

/-- SERVICE is allowed to itself alone (R187). -/
theorem allows_service_iff (l : AccessLevel) : levelAllows l .service = true ↔ l = .service := by
  cases l <;> decide

/-- Settles O19: each request's test, at each of the levels. -/
theorem accessAndPasswords : Obligations.AccessAndPasswords := by
  unfold Obligations.AccessAndPasswords
  intro tag password s
  simp only [exec_access, exec_passwordSet, accessRequest_studio, accessRequest_service, passwordRequest_studio,
    passwordRequest_service, allows_studio_iff, allows_service_iff]
  refine ⟨rfl, fun h => ?_, fun h => ?_, fun h => ?_, fun h => ?_, fun level h => ?_, fun h => ?_, fun h => ?_,
    fun h => ?_, fun h => ?_, fun level h => ?_⟩
  · rw [if_pos h]
    rfl
  · rw [if_neg h]
    rfl
  · rw [if_pos h]
    rfl
  · rw [if_neg h]
    rfl
  · rw [accessRequest_range h]
  · rw [if_pos h]
  · rw [if_neg (not_not_intro h)]
  · rw [if_pos h]
  · rw [if_neg h]
  · rw [passwordRequest_range h]

/-! ## The day and the identity (R193 to R195) -/

/-- Settles O21: both requests are OPERATOR's, and IDENT's report is taken before the counters are cleared. -/
theorem dateAndIdentity : Obligations.DateAndIdentity := by
  unfold Obligations.DateAndIdentity
  intro tag s
  exact ⟨fun day => next_request_operator .., identReport s, rfl, rfl, rfl, rfl, rfl, rfl, rfl, rfl, rfl, rfl,
    next_request_operator .., next_request_operator ..⟩

/-! ## The step -/

/-- No timer that runs has reached its deadline. -/
theorem dueExpiry_none (h : ∀ x ∈ timers s, ∀ d, x.1 = some d → s.clock.now < d) : dueExpiry s = none := by
  have hf : (timers s).find? (ranOut s.clock.now) = none := by
    rw [List.find?_eq_none]
    intro x hx hr
    obtain ⟨d, hd, hle⟩ := (Option.any_eq_true _ _).mp hr
    exact absurd (of_decide_eq_true hle) (Nat.not_le.mpr (h x hx d hd))
  rw [dueExpiry, hf, Option.map_none]

/-- With no command waiting and with power, the part acts on its own. -/
theorem step_running (hp : s.pending = []) (hu : s.startUp ≠ .restoring) : step s = running s := by
  rw [step, hp]
  dsimp only [idle]
  split
  · exact absurd ‹_› hu
  · rfl

theorem running_frame {f : Frame} {rest : List Frame} (h : s.control.receiveList = f :: rest) :
    running s = handleFrame f { s with control := { s.control with receiveList := rest } } := by
  rw [running, h]
  rfl

theorem running_quiet (hl : s.control.receiveList = []) (hd : dueExpiry s = none) : running s = tick s := by
  rw [running, hl]
  dsimp only
  rw [hd]

/-- Settles O1: by the queue, the start-up, the receive list and the timers, in the order in which the step asks. -/
theorem stepRunsFront : Obligations.StepRunsFront := by
  unfold Obligations.StepRunsFront
  refine ⟨fun c rest s => rfl, fun s hp => ⟨fun hu => ?_, fun hu => ⟨fun f rest c hl hc => ?_, fun hl ht hb => ?_⟩⟩⟩
  · rw [step, hp]
    dsimp only [idle]
    rw [hu]
  · rw [step_running hp hu, running_frame hl, handleFrame, hc]
  · rw [step_running hp hu, running_quiet hl (dueExpiry_none ht), tick, if_neg hb,
      timeTo_ahead (Nat.le_succ _)]

/-! ## The frame faults (R179 to R181) -/

theorem exec_frameCheckFault (l : Link) (s : State) :
    exec (.frameCheckFault l) s = .next (refreshPanel (discardFrame l .check s)) := rfl

theorem exec_frameLengthFault (l : Link) (s : State) :
    exec (.frameLengthFault l) s = .next (refreshPanel (discardFrame l .length s)) := rfl

theorem exec_overrun (f : Frame) (s : State) : exec (.overrun f) s = .next (refreshPanel (receiveFrame f s)) := rfl

/-- The gap timer of a link has passed, or does not run: the partial frame is discarded at once. -/
theorem gapExpires_late {l : Link} (h : ∀ d, (s.link l).gapDeadline = some d → d ≤ s.clock.now) :
    gapExpires l s = discardFrame l .gap s := by
  unfold gapExpires
  split
  next d hd => rw [timeTo_past (h d hd)]
  next => rfl

theorem exec_gapTimeout_late {l : Link} (h : ∀ d, (s.link l).gapDeadline = some d → d ≤ s.clock.now) :
    exec (.gapTimeout l) s = .next (refreshPanel (discardFrame l .gap s)) :=
  congrArg (fun t => Host.Outcome.next (refreshPanel t)) (gapExpires_late h)

theorem receiveFrame_room (h : s.control.receiveList.length < 4) (f : Frame) : receiveFrame f s =
    { s with control := { s.control with receiveList := s.control.receiveList ++ [f] } } := if_pos h

theorem receiveFrame_full (h : 4 ≤ s.control.receiveList.length) (f : Frame) :
    receiveFrame f s = countFault .control .overrun s := if_neg (Nat.not_lt.mpr h)

/-- Settles O35: each fault is a discard of its cause on its link, and an OVERRUN goes by the receive list's length. -/
theorem linkFaults : Obligations.LinkFaults := by
  unfold Obligations.LinkFaults
  intro s
  refine ⟨exec_frameCheckFault .engine s, exec_frameLengthFault .engine s, exec_frameCheckFault .spectro s,
    exec_frameLengthFault .spectro s, exec_frameCheckFault .control s, exec_frameLengthFault .control s,
    exec_gapTimeout_late (l := .control), exec_gapTimeout_late (l := .engine), exec_gapTimeout_late (l := .spectro),
    fun f h => ?_, fun f h => ?_⟩
  · rw [exec_overrun, receiveFrame_room h]
  · rw [exec_overrun, receiveFrame_full h]
    rfl

/-! ## The occurrence of a notice (R183 to R185) -/

theorem raise_masked {b : NoticeBody} (h : (s.notice b.kind).mask = true) :
    raise b s = s.mapNotice b.kind (·.hold b) := if_pos h

theorem raise_sent {b : NoticeBody} (h : (s.notice b.kind).mask = false) (hl : s.control.sendList.length < 31) :
    raise b s = s.push (.notice 1 false false b) := by
  have hr : s.noticeRoom = true := decide_eq_true hl
  rw [raise, h, hr]
  rfl

theorem raise_deferred {b : NoticeBody} (h : (s.notice b.kind).mask = false) (hl : 31 ≤ s.control.sendList.length) :
    raise b s = s.mapNotice b.kind fun n => { n.hold b with deferred := true } := by
  have hr : s.noticeRoom = false := decide_eq_false (Nat.not_lt.mpr hl)
  rw [raise, h, hr]
  rfl

/-- What is written to a notice kind's state, as it follows from the state the kind has. -/
theorem mapNotice_eq {kind : NoticeKind} {f : NoticeState → NoticeState} {n : NoticeState}
    (h : f (s.notice kind) = n) : s.mapNotice kind f = s.mapNotice kind fun _ => n := by
  subst h
  rfl

theorem notice_header (count : Nat) (flushed deferred : Bool) (b : NoticeBody) :
    (ControlFrame.notice count flushed deferred b).toFrame.body =
      [BitVec.ofNat 8 count, BitVec.ofNat 8 (flagBits [flushed, deferred])] ++ openNoticeBytes b := rfl

theorem reply_header (tag : Nat) (code : ReplyCode) (kind : Nat) (fields : ReplyFields) :
    (ControlFrame.reply tag code kind fields).toFrame.body =
      [BitVec.ofNat 8 code.byte, BitVec.ofNat 8 kind] ++ fields.bytes := rfl

theorem flagBits_pair (a b : Bool) : flagBits [a, b] = (if a then 1 else 0) + (if b then 2 else 0) := by
  cases a <;> cases b <;> rfl

/-- Settles O59: the headers as they are written, and an occurrence by its kind's mask and the room in the send list. -/
theorem noticeRule : Obligations.NoticeRule := by
  unfold Obligations.NoticeRule
  refine ⟨fun count flushed deferred b => ⟨rfl, rfl, ?_, ?_⟩, fun tag code kind fields => ⟨rfl, rfl, ?_, ?_⟩,
    fun b s => ⟨fun hm => ?_, fun hm hl => ?_, fun hm hl => ?_⟩⟩
  · rw [notice_header]
    rfl
  · rw [notice_header, flagBits_pair]
    rfl
  · rw [reply_header]
    rfl
  · rw [reply_header]
    rfl
  · rw [raise_masked hm]
    exact mapNotice_eq (by rw [NoticeState.hold, hm]; rfl)
  · rw [raise_sent hm hl]
    rfl
  · rw [raise_deferred hm hl]
    exact mapNotice_eq (by rw [NoticeState.hold, hm]; rfl)

end Sys2Proof.Machine
end

section
/-! PROOFS. The receivers of the three links: the bytes of a frame, one after another, lead from HUNT through the fields
of the frame back to HUNT (R178, R179). -/

namespace Sys2Proof.Machine

open Sys2Proof

variable {s : State} {l : Link}

/-! ## One link's receiver, changed -/

/-- A link's receiver and its gap timer, as they are set. -/
def State.hearing (l : Link) (r : Receiver) (gap : Option Nat) (s : State) : State :=
  s.mapLink l fun k => { k with receiver := r, gapDeadline := gap }

/-- The part has taken a byte, and its receiver goes on inside a frame (R179). -/
def heard (l : Link) (r : Receiver) (s : State) : State :=
  refreshPanel (s.hearing l r (some (s.clock.now + 50)))

theorem heard_receiver (l : Link) (r : Receiver) (s : State) : ((heard l r s).link l).receiver = r := by
  cases l <;> rfl

theorem goOn_heard (l : Link) (r r' : Receiver) (s : State) : refreshPanel (goOn l r' (heard l r s)) = heard l r' s := by
  cases l <;> rfl

theorem heard_hunting (l : Link) (r : Receiver) (s : State) :
    (heard l r s).mapLink l hunting = refreshPanel (s.hearing l .hunt none) := by cases l <;> rfl

/-! ## Where each byte leads (R179) -/

theorem receiveByte_lengthFirst (h : (s.link l).receiver = .length none) (b : Byte) :
    receiveByte l b s = goOn l (.length (some b)) s := by simp only [receiveByte, h]

/-- The length is known, and is one that a body may have. -/
theorem receiveByte_lengthSecond {low : Byte} (h : (s.link l).receiver = .length (some low)) {b : Byte}
    (hn : twoBytes low b ≤ 1024) : receiveByte l b s = goOn l (.kind (twoBytes low b)) s := by
  simp only [receiveByte, h]
  exact if_neg (Nat.not_lt.mpr hn)

theorem receiveByte_kind {n : Nat} (h : (s.link l).receiver = .kind n) (b : Byte) :
    receiveByte l b s = goOn l (.tag n b) s := by simp only [receiveByte, h]

/-- Where a receiver stands that has the kind, the tag and part of the body: at the body while bytes of it are missing,
else at the check. -/
def inBody (n : Nat) (kind tag : Byte) (bytes : List Byte) : Receiver :=
  if bytes.length < n then .body n kind tag bytes else .check n kind tag bytes none

theorem receiveByte_tag {n : Nat} {kind : Byte} (h : (s.link l).receiver = .tag n kind) (b : Byte) :
    receiveByte l b s = goOn l (inBody n kind b []) s := by
  simp only [receiveByte, h, inBody, List.length_nil]
  cases n <;> rfl

theorem receiveByte_body {n : Nat} {kind tag : Byte} {bytes : List Byte}
    (h : (s.link l).receiver = .body n kind tag bytes) (b : Byte) :
    receiveByte l b s = goOn l (inBody n kind tag (bytes ++ [b])) s := by
  simp only [receiveByte, h, inBody]

theorem receiveByte_checkFirst {n : Nat} {kind tag : Byte} {bytes : List Byte}
    (h : (s.link l).receiver = .check n kind tag bytes none) (b : Byte) :
    receiveByte l b s = goOn l (.check n kind tag bytes (some b)) s := by simp only [receiveByte, h]

/-- The second check byte agrees: the frame is taken (R179). -/
theorem receiveByte_checkSecond {n : Nat} {kind tag low : Byte} {bytes : List Byte}
    (h : (s.link l).receiver = .check n kind tag bytes (some low)) {b : Byte}
    (hc : twoBytes low b = frameCheck kind tag bytes) :
    receiveByte l b s = takeFrame l ⟨kind, tag, bytes⟩ (s.mapLink l hunting) := by
  simp only [receiveByte, h]
  exact if_pos hc

/-! ## The bytes of a frame -/

/-- The low and the high byte of a number below 65536 give it back (R178). -/
theorem twoBytes_leBytes {v : Nat} (h : v < 65536) :
    twoBytes (BitVec.ofNat 8 v) (BitVec.ofNat 8 (v / 256)) = v := by
  simp only [twoBytes, BitVec.toNat_ofNat]
  omega

/-- The commands of a list of bytes. -/
abbrev arriving (l : Link) (bytes : List Byte) : List Instr := bytes.map (Instr.linkByteReceived l)

theorem execAll_byte (l : Link) (b : Byte) (bytes : List Byte) (s : State) :
    execAll (arriving l (b :: bytes)) s = execAll (arriving l bytes) (refreshPanel (receiveByte l b s)) := rfl

/-- A byte with which the receiver goes on inside the frame. -/
theorem execAll_heard {r r' : Receiver} {b : Byte}
    (h : receiveByte l b (heard l r s) = goOn l r' (heard l r s)) (bytes : List Byte) :
    execAll (arriving l (b :: bytes)) (heard l r s) = execAll (arriving l bytes) (heard l r' s) := by
  rw [execAll_byte, h, goOn_heard]

theorem execAll_start (h : (s.link l).receiver = .hunt) (bytes : List Byte) :
    execAll (arriving l (0xA5#8 :: bytes)) s = execAll (arriving l bytes) (heard l (.length none) s) := by
  rw [execAll_byte, receiveByte_hunt h, if_pos rfl]
  rfl

/-- The length bytes lead to the kind. -/
theorem execAll_length {n : Nat} (hn : n ≤ 1024) (bytes : List Byte) :
    execAll (arriving l (leBytes 2 n ++ bytes)) (heard l (.length none) s) =
      execAll (arriving l bytes) (heard l (.kind n) s) := by
  have hv := twoBytes_leBytes (v := n) (by omega)
  rw [leBytes, leBytes, leBytes, List.cons_append, List.cons_append, List.nil_append,
    execAll_heard (receiveByte_lengthFirst (heard_receiver ..) _),
    execAll_heard (receiveByte_lengthSecond (heard_receiver ..) (hv.trans_le hn)), hv]

/-- The body's bytes, whatever part of it has been received, lead to the check. -/
theorem execAll_body (n : Nat) (kind tag : Byte) (got rest bytes : List Byte) (h : got.length + rest.length = n) :
    execAll (arriving l (rest ++ bytes)) (heard l (inBody n kind tag got) s) =
      execAll (arriving l bytes) (heard l (.check n kind tag (got ++ rest) none) s) := by
  induction rest generalizing got with
  | nil =>
    have hc : ¬got.length < n := by rw [← h]; exact Nat.lt_irrefl _
    rw [inBody, if_neg hc, List.nil_append, List.append_nil]
  | cons b rest ih =>
    have hb : inBody n kind tag got = .body n kind tag got := if_pos (by rw [← h, List.length_cons]; omega)
    rw [hb, List.cons_append, execAll_heard (receiveByte_body (heard_receiver ..) b),
      ih (got ++ [b]) (by rw [← h]; simp; omega), List.append_assoc, List.singleton_append]

/-- The check bytes of the frame end it: it is taken, and the receiver is in HUNT. -/
theorem execAll_check (n : Nat) (f : Frame) :
    execAll (arriving l (leBytes 2 (frameCheck f.kind f.tag f.body))) (heard l (.check n f.kind f.tag f.body none) s) =
      .next (refreshPanel (takeFrame l f (refreshPanel (s.hearing l .hunt none)))) := by
  have hv := twoBytes_leBytes (v := frameCheck f.kind f.tag f.body) (BitVec.isLt _)
  rw [leBytes, leBytes, leBytes, execAll_heard (receiveByte_checkFirst (heard_receiver ..) _), execAll_byte,
    receiveByte_checkSecond (heard_receiver ..) hv, heard_hunting]
  rfl

/-- A whole frame, from HUNT: each part of it leads to the next, and the last byte hands it to the link's owner. -/
theorem execAll_frame {f : Frame} (hn : f.body.length ≤ 1024) (h : (s.link l).receiver = .hunt) :
    execAll (arriving l f.toBytes) s = .next (refreshPanel (takeFrame l f (refreshPanel (s.hearing l .hunt none)))) := by
  rw [Frame.toBytes, execAll_start h, List.append_assoc, execAll_length hn, List.cons_append, List.cons_append,
    execAll_heard (receiveByte_kind (heard_receiver ..) _), execAll_heard (receiveByte_tag (heard_receiver ..) _),
    execAll_body _ _ _ [] f.body _ (Nat.zero_add _), List.nil_append, execAll_check]

/-- The check of the nine ASCII bytes "123456789" (R178), byte by byte. -/
theorem crc16_standard :
    crc16 [0x31#8, 0x32#8, 0x33#8, 0x34#8, 0x35#8, 0x36#8, 0x37#8, 0x38#8, 0x39#8] = 0x29B1#16 := by
  have one : crcByte 0xFFFF#16 0x31#8 = 0xC782#16 := by decide
  have two : crcByte 0xC782#16 0x32#8 = 0x3DBA#16 := by decide
  have three : crcByte 0x3DBA#16 0x33#8 = 0x5BCE#16 := by decide
  have four : crcByte 0x5BCE#16 0x34#8 = 0x5349#16 := by decide
  have five : crcByte 0x5349#16 0x35#8 = 0x4560#16 := by decide
  have six : crcByte 0x4560#16 0x36#8 = 0x2EF4#16 := by decide
  have seven : crcByte 0x2EF4#16 0x37#8 = 0x7718#16 := by decide
  have eight : crcByte 0x7718#16 0x38#8 = 0xA12B#16 := by decide
  have nine : crcByte 0xA12B#16 0x39#8 = 0x29B1#16 := by decide
  simp only [crc16, List.foldl_cons, List.foldl_nil, one, two, three, four, five, six, seven, eight, nine]

/-- Settles O17: the bytes lead through the fields of the frame, and the control link's owner puts it in its list. -/
theorem receiverTakesFrame : Obligations.ReceiverTakesFrame := by
  unfold Obligations.ReceiverTakesFrame
  refine ⟨fun f s hn hr hl => ⟨_, execAll_frame (l := .control) hn hr, ?_⟩, fun l f s => execAll_frame, crc16_standard⟩
  rw [takeFrame, receiveFrame_room (s := refreshPanel (s.hearing .control .hunt none)) hl]
  exact ⟨rfl, rfl⟩

end Sys2Proof.Machine
end

section
/-! PROOFS. The requests of the control link, read back from their frames: the fields and flags of each body, the tables
of records, and then each kind by its layout (R178, R182, section 10.8). -/

namespace Sys2Proof.Machine

open Sys2Proof

/-! ## Flags and optional fields -/

/-- A flag of a body's byte is a bit of the one-byte field there. -/
theorem flag_field (b : List Byte) (i j : Nat) : (b.getD i 0).getLsbD j = (field b i 1).testBit j := by
  rw [List.getD_eq_getElem?_getD, ← List.head?_drop, field]
  cases b.drop i with
  | nil => simp [leNat]
  | cons x xs => simp [leNat, BitVec.getLsbD]

/-- A byte that carries one flag, in its bit 0. -/
theorem field_flag (c : Bool) : (field (leBytes 1 (if c then 1 else 0)) 0 1).testBit 0 = c := by cases c <;> rfl

/-- A field in which one value stands for "none" gives an optional value back. -/
theorem orNone_field {n absent : Nat} {o : Option Nat} (h : (o.all fun v => fits n v && v != absent) = true)
    (ha : fits n absent = true) : orNone absent (field (leBytes n (o.getD absent)) 0 n) = o := by
  cases o with
  | none => rw [Option.getD_none, field_leBytes ha, orNone, if_pos rfl]
  | some v =>
    rw [Option.all_some, Bool.and_eq_true, bne_iff_ne] at h
    rw [Option.getD_some, field_leBytes h.1, orNone, if_neg h.2]

/-! ## The print description -/

/-- The fields ahead of the estimates. -/
def descriptionHead (d : PrintDescription) : List Byte :=
  leBytes 4 d.jobTag ++ leBytes 1 d.kindCode ++ leBytes 1 (descriptionBits d) ++ leBytes 4 (d.editionId.getD 0) ++
  leBytes 1 (d.refSet.getD 0) ++ leBytes 1 d.mediaType ++ leBytes 2 d.imageWidth ++ leBytes 4 d.spanLength

theorem descriptionHead_length (d : PrintDescription) : (descriptionHead d).length = 18 := by
  simp [descriptionHead, leBytes_length]

theorem encodeDescription_eq (d : PrintDescription) :
    encodeDescription d = descriptionHead d ++ d.estimates.toList.flatMap (leBytes 4) := rfl

theorem encodeDescription_length (d : PrintDescription) : (encodeDescription d).length = 66 := by
  simp [encodeDescription_eq, descriptionHead_length, records_length (leBytes_length 4)]

/-- A field ahead of the estimates. -/
theorem field_descriptionHead (d : PrintDescription) {o n : Nat} (h : o + n ≤ 18) :
    field (encodeDescription d) o n = field (descriptionHead d) o n := by
  rw [encodeDescription_eq, field_append_left (h.trans_eq (descriptionHead_length d).symm)]

theorem field_estimate (d : PrintDescription) {i : Nat} (hi : i < 12) :
    field (encodeDescription d) (18 + 4 * i) 4 = field (leBytes 4 d.estimates[i]) 0 4 := by
  have hs : 18 + 4 * i - (descriptionHead d).length = 4 * i + 0 := by rw [descriptionHead_length]; omega
  rw [encodeDescription_eq, field_append_right (by rw [descriptionHead_length]; omega), hs,
    field_records (leBytes_length 4) (by simpa using hi) 0 (Nat.le_refl 4), Vector.getElem_toList]

/-- The option byte holds its three flags, each in its own bit. -/
theorem descriptionBits_flags (d : PrintDescription) :
    fits 1 (descriptionBits d) = true ∧ (descriptionBits d).testBit 0 = d.hold ∧
      (descriptionBits d).testBit 1 = d.editionId.isSome ∧ (descriptionBits d).testBit 2 = d.refSet.isSome := by
  rw [descriptionBits]
  cases d.hold <;> cases d.editionId.isSome <;> cases d.refSet.isSome <;> decide

theorem field_descriptionBits (d : PrintDescription) : field (encodeDescription d) 5 1 = descriptionBits d := by
  rw [field_descriptionHead d (by decide)]
  simp [descriptionHead, field_append_left, field_append_right, leBytes_length, field_leBytes,
    (descriptionBits_flags d).1]

/-- An optional field under its present flag. -/
theorem present_getD (o : Option Nat) : (if o.isSome = true then some (o.getD 0) else none) = o := by cases o <;> rfl

theorem fits_getD {n : Nat} {o : Option Nat} (h : o.all (fits n) = true) : fits n (o.getD 0) = true := by
  cases o with
  | none => exact decide_eq_true (Nat.pow_pos (by decide))
  | some v => exact h

theorem decodeDescription_encode {d : PrintDescription} (h : d.fits = true) :
    decodeDescription (encodeDescription d) = d := by
  simp only [PrintDescription.fits, Bool.and_eq_true, Vector.all_toList] at h
  obtain ⟨⟨⟨⟨⟨⟨⟨hj, hk⟩, he⟩, hr⟩, hm⟩, hw⟩, hs⟩, hest⟩ := h
  obtain ⟨_, hhold, hed, href⟩ := descriptionBits_flags d
  have hestimates : (decodeDescription (encodeDescription d)).estimates = d.estimates := by
    refine Vector.ext fun i hi => ?_
    simp only [decodeDescription, Vector.getElem_ofFn, field_estimate d hi]
    exact field_leBytes (Vector.all_eq_true.mp hest i hi)
  have hhead : decodeDescription (encodeDescription d) =
      { d with estimates := (decodeDescription (encodeDescription d)).estimates } := by
    simp only [decodeDescription, flag_field, field_descriptionBits, hhold, hed, href]
    simp [field_descriptionHead, descriptionHead, field_append_left, field_append_right, leBytes_length, field_leBytes,
      fits_getD, present_getD, hj, hk, he, hr, hm, hw, hs]
  rw [hhead, hestimates]

/-! ## The reference sets -/

theorem encodePatch_length (p : Patch) : (encodePatch p).length = 7 := by
  simp [encodePatch, leBytes_length, signedBytes_length]

/-- The critical flag is bit 0 of a patch's last byte. -/
theorem encodePatch_critical (p : Patch) : (field (encodePatch p) 6 1).testBit 0 = p.critical := by
  rw [encodePatch, field_append_right (by simp [leBytes_length, signedBytes_length])]
  exact field_flag p.critical

/-- The fields ahead of the patches. -/
def referenceHead (index count warn fail : Nat) : List Byte :=
  leBytes 1 index ++ leBytes 1 count ++ leBytes 2 warn ++ leBytes 2 fail

theorem referenceHead_length (index count warn fail : Nat) : (referenceHead index count warn fail).length = 6 := by
  simp [referenceHead, leBytes_length]

theorem encodeReference_eq (index count : Nat) (ps : List Patch) (warn fail : Nat) :
    encodeReference index count ps warn fail = referenceHead index count warn fail ++ ps.flatMap encodePatch := rfl

theorem encodeReference_length (index count : Nat) (ps : List Patch) (warn fail : Nat) :
    (encodeReference index count ps warn fail).length = 6 + 7 * ps.length := by
  rw [encodeReference_eq, List.length_append, referenceHead_length, records_length encodePatch_length]

section patches

variable {index count warn fail : Nat} {ps : List Patch} {k : Nat} (hk : k < ps.length)

include hk

/-- A field of a patch's seven bytes. -/
theorem field_patch {o n : Nat} (ho : o + n ≤ 7) :
    field (encodeReference index count ps warn fail) (6 + o + 7 * k) n = field (encodePatch ps[k]) o n := by
  have hs : 6 + o + 7 * k - (referenceHead index count warn fail).length = 7 * k + o := by
    rw [referenceHead_length]; omega
  rw [encodeReference_eq, field_append_right (by rw [referenceHead_length]; omega), hs,
    field_records encodePatch_length hk o ho]

theorem decodePatch_encode (h : ps[k].fits = true) :
    decodePatch (encodeReference index count ps warn fail) k = ps[k] := by
  simp only [Patch.fits, Bool.and_eq_true, decide_eq_true_eq] at h
  obtain ⟨⟨hl, ha⟩, hb⟩ := h
  have hlf : fits 2 ps[k].targetL.toNat = true := decide_eq_true (by omega)
  have h0 : field (encodeReference index count ps warn fail) (6 + 7 * k) 2 = _ := field_patch hk (o := 0) (by decide)
  have h2 : field (encodeReference index count ps warn fail) (8 + 7 * k) 2 = _ := field_patch hk (o := 2) (by decide)
  have h4 : field (encodeReference index count ps warn fail) (10 + 7 * k) 2 = _ := field_patch hk (o := 4) (by decide)
  have h6 : field (encodeReference index count ps warn fail) (12 + 7 * k) 1 = _ := field_patch hk (o := 6) (by decide)
  rw [decodePatch, flag_field, h0, h2, h4, h6, encodePatch_critical]
  simp [encodePatch, field_append_left, field_append_right, leBytes_length, signedBytes_length, field_leBytes,
    signed16_field, hlf, ha, hb, Int.toNat_of_nonneg hl.1]

end patches

theorem decodePatches_encode {index count warn fail : Nat} {ps : List Patch} (h : ps.all Patch.fits = true) :
    (List.range ps.length).map (decodePatch (encodeReference index count ps warn fail)) = ps := by
  refine List.ext_getElem (by simp) fun k _ hk => ?_
  rw [List.getElem_map, List.getElem_range, decodePatch_encode hk (List.all_eq_true.mp h _ (List.getElem_mem hk))]

/-! ## The frames -/

theorem mkFrame_body (kind tag : Nat) (body : List Byte) : (mkFrame kind tag body).body = body := rfl

/-- A body of the length that its kind carries. -/
theorem exactly_mkFrame {body : List Byte} {n : Nat} (h : body.length = n) (kind tag : Nat) (c : Instr) :
    exactly (mkFrame kind tag body) n c = .command c := if_pos h

theorem encodeSetting_length (code : Nat) (v : BitVec 32) : (encodeSetting code v).length = 5 := by
  simp [encodeSetting, leBytes_length]

theorem field_settingCode {code : Nat} (h : fits 1 code = true) (v : BitVec 32) :
    field (encodeSetting code v) 0 1 = code := by
  rw [encodeSetting, field_append_left (Nat.le_refl 1), field_leBytes h]

theorem field_settingValue (code : Nat) (v : BitVec 32) : field (encodeSetting code v) 1 4 = v.toNat := by
  rw [encodeSetting, field_append_right (Nat.le_refl 1)]
  exact field_leBytes (decide_eq_true v.isLt)

theorem decodeReference_encode {tag index count warn fail : Nat} {ps : List Patch}
    (h : (Instr.referenceLoad tag index count ps warn fail).wf = true) (kind : Nat) :
    decodeReference (mkFrame kind tag (encodeReference index count ps warn fail)) =
      .command (.referenceLoad tag index count ps warn fail) := by
  simp only [Instr.wf, Bool.and_eq_true] at h
  obtain ⟨⟨⟨⟨⟨⟨ht, hi⟩, hn⟩, hp⟩, hw⟩, hf⟩, _⟩ := h
  have hl : 6 ≤ 6 + 7 * ps.length ∧ (6 + 7 * ps.length - 6) % 7 = 0 := by omega
  have hk : (6 + 7 * ps.length - 6) / 7 = ps.length := by omega
  simp only [decodeReference, mkFrame_body, mkFrame_tag ht, encodeReference_length, if_pos hl, hk,
    decodePatches_encode hp]
  simp [encodeReference, field_append_left, field_append_right, leBytes_length, field_leBytes, hi, hn, hw, hf]

theorem decodeEditionOpen_encode {tag id limit apLimit refSet mediaType : Nat} {title : List Byte}
    (h : (Instr.editionOpen tag id title limit apLimit refSet mediaType).wf = true) (kind : Nat) :
    decodeEditionOpen (mkFrame kind tag (leBytes 4 id ++ leBytes 2 limit ++ leBytes 1 apLimit ++ leBytes 1 refSet ++
      leBytes 1 mediaType ++ title)) = .command (.editionOpen tag id title limit apLimit refSet mediaType) := by
  simp only [Instr.wf, Bool.and_eq_true] at h
  obtain ⟨⟨⟨⟨⟨⟨ht, hi⟩, hl⟩, ha⟩, hr⟩, hm⟩, _⟩ := h
  rw [decodeEditionOpen, mkFrame_tag ht, mkFrame_body, if_pos (by simp [leBytes_length]; omega),
    List.drop_left' (by simp [leBytes_length])]
  simp [field_append_left, field_append_right, leBytes_length, field_leBytes, hi, hl, ha, hr, hm]

theorem decodeMediaSet_encode {tag mediaType price : Nat} {name : List Byte} {adjustment : Int}
    (h : (Instr.mediaSet tag mediaType name price adjustment).wf = true) (kind : Nat) :
    decodeMediaSet (mkFrame kind tag (leBytes 1 mediaType ++ leBytes 4 price ++ signedBytes adjustment ++ name)) =
      .command (.mediaSet tag mediaType name price adjustment) := by
  simp only [Instr.wf, Bool.and_eq_true] at h
  obtain ⟨⟨⟨⟨ht, hm⟩, hp⟩, ha⟩, _⟩ := h
  rw [decodeMediaSet, mkFrame_tag ht, mkFrame_body, if_pos (by simp [leBytes_length, signedBytes_length]; omega),
    List.drop_left' (by simp [leBytes_length, signedBytes_length])]
  simp [field_append_left, field_append_right, leBytes_length, signedBytes_length, field_leBytes, signed16_field,
    hm, hp, ha]

/-- A kind that is none of the request kinds. -/
theorem decodeControl_unknown {f : Frame} (h : requestKinds.contains f.kind.toNat = false) :
    decodeControl f = .command (.unknownKind f.tag.toNat f.kind.toNat) := by
  unfold decodeControl
  split
  case h_45 => rfl
  all_goals
    rename_i hk
    rw [hk] at h
    cases h

/-- Every request is read back: its kind chooses the command, its length is the kind's own, and each field stands in its
place. The cases go by the layout of the body. -/
theorem decodeControl_encode {c : Instr} {f : Frame} (h : c.wf = true) (hf : encodeControl c = some f) :
    decodeControl f = .command c := by
  cases c <;> simp only [encodeControl, reduceCtorEq] at hf
  all_goals cases hf
  case unknownKind t k =>
    simp only [Instr.wf, Bool.and_eq_true, Bool.not_eq_true'] at h
    obtain ⟨⟨ht, hk⟩, hu⟩ := h
    have hkind : (mkFrame k t []).kind.toNat = k := mkFrame_kind (of_decide_eq_true hk) ..
    rw [decodeControl_unknown (by rw [hkind, hu]), hkind, mkFrame_tag ht]
  all_goals simp (disch := decide) only [decodeControl, mkFrame_kind, mkFrame_body]
  case referenceLoad => exact decodeReference_encode h _
  case editionOpen => exact decodeEditionOpen_encode h _
  case mediaSet => exact decodeMediaSet_encode h _
  all_goals simp only [Instr.wf, Bool.and_eq_true] at h
  -- a body that holds nothing
  case settingsQuery | reset | factoryRestore | rollConfirm | rollQuery | cutQuery | calibrate | colourQuery | costRead |
      engineQuery =>
    rw [exactly_mkFrame List.length_nil, mkFrame_tag h]
  -- a body of one field
  case date | printRelease | printCancel | move | cutNow | referenceSeal | referenceQuery | editionHold | editionResume |
      editionClose | editionArchive | closedQuery | costDrop =>
    rw [exactly_mkFrame (leBytes_length _ _), mkFrame_tag h.1, field_leBytes h.2]
  -- a body of one field in which a value stands for "none"
  case printQuery | inkQuery | meterQuery | editionQuery =>
    rw [exactly_mkFrame (leBytes_length _ _), mkFrame_tag h.1, orNone_field h.2 (by decide)]
  -- a body of several fields
  case access | passwordSet | channelColour | trimSet | dropRowSet | manualModeSet | rollLoad | cutAt | tariffSet =>
    rw [exactly_mkFrame (by simp [leBytes_length])]
    simp [mkFrame_tag, field_append_left, field_append_right, leBytes_length, field_leBytes, h]
  -- a code that chooses among the commands of one kind
  case setInkMargin | setUncheckedPolicy | setNoticeMask | setLamp | setHaltRouting | setAttnRouting =>
    simp [decodeSetting, mkFrame_body, mkFrame_tag h, encodeSetting_length, field_settingCode, field_settingValue]
  case clearFaultChannel | clearFaultTransport | clearFaultVerdictLatch =>
    simp [decodeClearFault, mkFrame_body, mkFrame_tag, leBytes_length, field_append_left, field_append_right,
      field_leBytes, h]
  case priceQueryTariff | priceQueryMedia | priceQueryLog =>
    simp [decodePriceQuery, mkFrame_body, mkFrame_tag h, leBytes_length, field_leBytes]
  case ident => rw [exactly_mkFrame (leBytes_length _ _), mkFrame_tag h, flag_field, field_flag]
  case printSubmit =>
    rw [exactly_mkFrame (encodeDescription_length _), mkFrame_tag h.1, decodeDescription_encode h.2]

/-- Settles O15: the kind of a request's frame chooses its command, and each field of the body stands in its place. -/
theorem controlRoundTrip : Obligations.ControlRoundTrip := by
  unfold Obligations.ControlRoundTrip
  exact fun c f => decodeControl_encode

end Sys2Proof.Machine
end

section
/-! PROOFS. The queue of waiting commands: `step` takes its front, and the command that is taken leaves the rest as it
stands. -/

namespace Sys2Proof.Machine

open Sys2Proof

variable {c : Instr} {s t : State}

/-- The state that a command answers keeps what every command keeps. -/
theorem lawful_of_exec (h : exec c s = .next t) : Lawful s t := by
  obtain ⟨u, hu, hl⟩ := exec_lawful c s
  rw [hu] at h
  cases h
  exact hl

/-- Settles O3: the waiting commands are among what every command keeps. -/
theorem queueUntouched : Obligations.QueueUntouched := by
  unfold Obligations.QueueUntouched
  intro c s t h
  exact (lawful_of_exec h).pending

end Sys2Proof.Machine
end
